-- ==== Sys2Proof/Word.lean ====
section
/-!
DEFINITION. Word.lean: the widths of the values the block moves (spec/00_scope.md R9, R12).
Bit 0 is the least-significant bit of every value (R12), which is BitVec's own numbering.
-/
namespace Sys2Proof

/-- A four-bit field: `op` and `z` of the operation word, `axisIndex` of the command byte. -/
abbrev Nibble := BitVec 4

/-- Eight bits, unsigned: the `axis` and `period` operands (R9), a bus byte, the command byte (R61). -/
abbrev Byte := BitVec 8

/-- Sixteen bits: a raw sample's two's-complement pattern (R24), or one word of the timeout ROM (R40). -/
abbrev Half := BitVec 16

/-- Thirty-two bits: a timeout in microseconds (R23) or the fused sample's pattern (R26). -/
abbrev Word32 := BitVec 32

/-- A reading of the external 64-bit microsecond clock (R9, R93). -/
abbrev Clock := BitVec 64

/-- The 56-bit operation word `OPW` (R64). -/
abbrev Opw := BitVec 56

end Sys2Proof
end

