-- ==== Sys2Proof/Config.lean ====
section
/-!
DEFINITION. Config.lean: what is fixed for an instance of the block before reset (spec/10_state.md R30,
spec/00_scope.md R5 to R8) and the free values of the environment (R15).
The fields are carried in `Machine.State` so that one `step` serves every instance; no operation writes
them. The timeout ROM, the other constant of this layer, is in Machine/Rom.lean.
-/
namespace Sys2Proof

/-- The configuration fields of R30. They are held as plain numbers, wider than their legal values,
because "the block does not check" them (R5) and a model refuses an illegal one by name (R142). -/
structure Config where
  /-- `AXIS_COUNT`, the number of sensing axes (R5). -/
  axisCount : Nat
  /-- `READY_WIRED`, true when the ready line is wired (R6). -/
  readyWired : Bool
  /-- `AXIS_BASE`, the number the host gives the first axis (R7). -/
  axisBase : Nat
  /-- `MOD2_NEG_ODD`, the value of `high mod 2` for a negative odd `high` (R8). -/
  mod2NegOdd : Int
deriving DecidableEq, Repr

namespace Config

/-- A configuration the source defines: `AXIS_COUNT` in {2, 3}, `AXIS_BASE` in {0, 1}, `MOD2_NEG_ODD`
in {+1, -1} (R5, R7, R8, R142). -/
abbrev Legal (c : Config) : Prop :=
  (c.axisCount = 2 ∨ c.axisCount = 3) ∧ (c.axisBase = 0 ∨ c.axisBase = 1) ∧
    (c.mod2NegOdd = 1 ∨ c.mod2NegOdd = -1)

/-- The instance `State.reset` has. `AXIS_BASE = 1` and `MOD2_NEG_ODD = +1` are this hardware's (R30).
DESIGN CHOICE (log 2): `AXIS_COUNT = 3` and `READY_WIRED = true`, which the spec leaves as parameters of
the instance, are those of spec/95_test_vectors.md. -/
def hardware : Config :=
  { axisCount := 3, readyWired := true, axisBase := 1, mod2NegOdd := 1 }

/-- A result byte of the sensor that no listed draw supplies (R15 a): no value is known of it (log 5). -/
opaque freeByte : Nat → Byte

/-- Whether a polled wait that no listed draw decides expires (R15 b): nothing is known of it (log 5). -/
opaque freeExpired : Nat → Bool

end Config
end Sys2Proof
end

