-- ==== Sys2Proof/Syntax.lean ====
section
/-!
DEFINITION. Syntax.lean: the block operations and command-byte rows of spec/opcode_table.json, one
constructor a row (spec/30_encoding.md R65, R61); the word a port carries; the host's pseudo-instructions
(R73) and the lines of a host program (R72).
-/
namespace Sys2Proof

/-- One row of the opcode table each. The first six are block operations (format `OPW`), the other eight
are command bytes (format `CMD`), one per period code, with the low field `axisIndex` as operand. -/
inductive Instr where
  /-- `ENC axis, period` (R80). -/
  | enc (axis period : Byte)
  /-- `TMO period, timeout` (R90). -/
  | tmo (period : Byte) (timeout : Word32)
  /-- `WAITR x`; `x` true means the wait expired (R92). -/
  | waitr (x : Bool)
  /-- `LDL b0, b1` (R100). -/
  | ldl (b0 b1 : Byte)
  /-- `LDH b0, b1` (R101). -/
  | ldh (b0 b1 : Byte)
  /-- `FUSE` (R102). -/
  | fuse
  /-- Command byte of period code 0, label 32 (R84). -/
  | cmdP32 (axisIndex : Nibble)
  /-- Command byte of period code 1, label 64 (R84). -/
  | cmdP64 (axisIndex : Nibble)
  /-- Command byte of period code 2, label 128 (R84). -/
  | cmdP128 (axisIndex : Nibble)
  /-- Command byte of period code 3, label 256 (R84). -/
  | cmdP256 (axisIndex : Nibble)
  /-- Command byte of period code 4, label 512 (R84). -/
  | cmdP512 (axisIndex : Nibble)
  /-- Command byte of period code 5, label 1024 (R84). -/
  | cmdP1024 (axisIndex : Nibble)
  /-- Command byte of period code 6, label 2048 (R84). -/
  | cmdP2048 (axisIndex : Nibble)
  /-- Command byte of period code 7, label 4096 (R84). -/
  | cmdP4096 (axisIndex : Nibble)
deriving DecidableEq, Repr

/-- A word of one of the two formats (R60). A command byte never reaches the block's operation port in a
host program; the second case is there for the `CMD` rows of the opcode table (log 3). -/
inductive PortWord where
  /-- A 56-bit operation word on the operation port (R64). -/
  | opw (w : Opw)
  /-- An 8-bit command byte (R61). -/
  | cmd (c : Byte)
deriving DecidableEq, Repr

/-- The destination letter `d` of `GETRESULT` and `READ`: `L` is `LOW`, `H` is `HIGH` (R73). -/
inductive Dest where
  | low
  | high
deriving DecidableEq, Repr

/-- The five pseudo-instructions of the host (R73). -/
inductive Call where
  /-- `CONVERT axis, period` (R111). -/
  | convert (axis period : Byte)
  /-- `GETRESULT d` (R112). -/
  | getResult (d : Dest)
  /-- `READ d, axis, period, timeout` (R113). DESIGN CHOICE (log 24): a program line may name either destination, as
  R73 writes the line, where R113 and D18 say that `d` is `L` when the host calls `READ` on its own account. -/
  | read (d : Dest) (axis period : Byte) (timeout : Word32)
  /-- `READHP axis, timeout` (R114). -/
  | readHp (axis : Byte) (timeout : Word32)
  /-- `BEGIN` (R115). -/
  | begin
deriving DecidableEq, Repr

/-- One line of a host program (R72, R73): a bare operation word, or a pseudo-instruction. -/
inductive Line where
  | word (w : Opw)
  | call (c : Call)
deriving DecidableEq, Repr

end Sys2Proof
end

