-- ==== Sys2Proof/Machine/State.lean ====
section
/-!
DEFINITION. Machine/State.lean: the state as plain data (spec/10_state.md R20 to R31, spec/00_scope.md R13;
spec/43_sequences.md R110 for the host's part), the fault and refusal reasons (spec/60_exceptions.md R142),
and the state after reset (R31, R150).
-/
namespace Sys2Proof.Machine

/-! ### The block's values -/

/-- The four status codes, in the order the source lists them (R10, R21). -/
inductive Status where
  | noError
  | badAxis
  | badPeriod
  | timeout
deriving DecidableEq, Repr

/-- The six registers of R20 by name. -/
inductive RegName where
  | st
  | cmd
  | tmo
  | low
  | high
  | res
deriving DecidableEq, Repr

/-! ### What the host sees and does -/

/-- The outcome of a polled wait (R15 b, R93). -/
inductive WaitOutcome where
  | ready
  | expired
deriving DecidableEq, Repr

/-- The three lines of the host (R110). -/
inductive LineId where
  | select
  | reset
  | ready
deriving DecidableEq, Repr

/-- The direction of a line (R110). -/
inductive Direction where
  | input
  | output
deriving DecidableEq, Repr

/-- The ten events of R110. -/
inductive Event where
  /-- `dir(line, in)` or `dir(line, out)`: `setDirection` of a line. -/
  | dir (line : LineId) (d : Direction)
  /-- The select line made active. -/
  | sel
  /-- The select line made inactive. -/
  | desel
  /-- The reset line made inactive. -/
  | rstIdle
  /-- The reset line active for at least 1 microsecond, then inactive (R154). -/
  | rstPulse
  /-- `configure` of the bus transport. -/
  | busCfg
  /-- One `exchangeByte(c)` whose returned byte is dropped. -/
  | tx (c : Byte)
  /-- One `exchangeByte` whose returned byte is `b`. -/
  | rx (b : Byte)
  /-- The polled wait of R93 with a timeout in microseconds. -/
  | poll (t : Word32)
  /-- One `delayMicros` call (R94). -/
  | delay (t : Word32)
deriving DecidableEq, Repr

/-- What a sequence returned (R110): `return (status, value)`. `GETRESULT` alone returns a value and no
status (R112), so `status` is an option. -/
structure Ret where
  status : Option Status
  value : Option Int
deriving DecidableEq, Repr

/-! ### Positions in the sequences

"A model gives each sequence of `43_sequences.md` a position as plain data" (R28). One constructor a line of
the pseudocode still to run; a constructor carries the locals that are live there, and a position inside a
called sequence carries the callee's position, so that the nesting of R117 is in the types. -/

/-- Positions of `CONVERT` (R111). -/
inductive ConvertPoint where
  | enc
  | test
  | sel
  | pulse
  | tx
  | desel
  | ret
deriving DecidableEq, Repr

/-- Positions of `GETRESULT` (R112). -/
inductive GetPoint where
  | sel
  | rx0
  | rx1 (b0 : Byte)
  | desel (b0 b1 : Byte)
  | load (b0 b1 : Byte)
  | ret (b0 b1 : Byte)
deriving DecidableEq, Repr

/-- Positions of `READ` (R113). -/
inductive ReadPoint where
  | converting (p : ConvertPoint)
  | tmo
  | test
  | latch
  | wait (t : Word32)
  | report (w : WaitOutcome)
  | judge (w : WaitOutcome)
  | getting (p : GetPoint)
deriving DecidableEq, Repr

/-- Positions of `READHP` (R114). -/
inductive ReadHpPoint where
  | low (p : ReadPoint)
  | high (p : ReadPoint)
  | fuse
  | ret
deriving DecidableEq, Repr

/-- Positions of `BEGIN` (R115). -/
inductive BeginPoint where
  | dirSelect
  | dirReset
  | dirReady
  | desel
  | rstIdle
  | busCfg
  | reading (p : ReadPoint)
deriving DecidableEq, Repr

/-- The sequence the host is running, its operands and its position. -/
inductive Activity where
  | convert (axis period : Byte) (p : ConvertPoint)
  | getResult (d : Dest) (p : GetPoint)
  | read (d : Dest) (axis period : Byte) (timeout : Word32) (p : ReadPoint)
  | readHp (axis : Byte) (timeout : Word32) (p : ReadHpPoint)
  | begin (p : BeginPoint)
deriving DecidableEq, Repr

/-- The values the environment will supply (R15): "free inputs of the step". The lists are read from the
front; past their end the opaque functions of Config supply the value, indexed by `count` (log 5). -/
structure Draws where
  /-- Result bytes still to come (R15 a). -/
  bytes : List Byte
  /-- Outcomes of polled waits still to come (R15 b). -/
  waits : List WaitOutcome
  /-- How many values the opaque functions have supplied. The model's own field. -/
  count : Nat
deriving DecidableEq, Repr

/-! ### The state -/

/-- The machine: the block's six registers (R20), the configuration it is an instance of (R30), and the one
host that drives it (R4), with the environment's values (R15). An `Option` register is the spec's own pair of
valid bit and payload (R13): `none` is a clear valid bit, whose payload no rule reads. -/
structure State where
  /-- The configuration (R30); no step changes it. -/
  cfg : Config
  /-- `ST`, `x[0]` (R21). -/
  st : Status
  /-- `CMD`, `x[1]`, with `CV` (R22). -/
  cmd : Option Byte
  /-- `TMO`, `x[2]`, with `TV`, in microseconds (R23). -/
  tmo : Option Word32
  /-- `LOW`, `x[3]`, with `LV`: the pattern of a signed sample (R24). -/
  low : Option Half
  /-- `HIGH`, `x[4]`, with `HV`: the pattern of a signed sample (R25). -/
  high : Option Half
  /-- `RES`, `x[5]`, with `RV`: the pattern of a signed result (R26). -/
  res : Option Word32
  /-- The operation port: the word the host presents and the block has not yet taken (R64, R51). -/
  port : Option PortWord
  /-- The lines of the host program not yet begun (R72, R73). -/
  program : List Line
  /-- The sequence in progress, if any (R28). -/
  activity : Option Activity
  /-- What the last sequence to end returned (R110). -/
  ret : Option Ret
  /-- The trace of the sequence in progress or last ended, oldest event first (R110). -/
  trace : List Event
  /-- The block operations that sequence has issued, oldest first (R111 to R115 count them). -/
  issued : List Instr
  /-- The environment's values to come (R15). -/
  draws : Draws
deriving DecidableEq, Repr

/-! ### Why a step stops -/

/-- The faults. -/
inductive Fault where
  /-- `FUSE` with `LOW` or `HIGH` invalid (R106, R142). Raised by `execFuse`. Safe: the model has no next state
  where the block has one. -/
  | fuseOperandInvalid
  /-- The host reads the payload of `CMD`, `TMO` or `RES` in a sequence while its valid bit is clear (R13, D6:
  "reads of unwritten registers fault"). Raised by `stepConvert`, `stepRead` and `stepReadHp`. Safe. -/
  | invalidRegisterRead
deriving DecidableEq, Repr

/-- One step of a sequence: go on at a position, or return, or stop. `π` is the sequence's positions, `ρ` what
it returns; the last argument of the first two is the state after the step. -/
inductive Progress (π ρ : Type) where
  | goto (p : π) (s : State)
  | done (r : ρ) (s : State)
  | fault (f : Fault)
deriving DecidableEq, Repr

/-- The refusals. -/
inductive Refusal where
  /-- An instruction with no meaning in the model. Raised by `exec` alone. Safe. -/
  | notModelled (mnemonic : String)
  /-- A reserved operation word (R67, R142: `refuse ReservedOp`). Raised by `step`. Safe. -/
  | reservedOp
  /-- A configuration outside the legal values (R142: `refuse BadConfig`). Raised by every meaning of a block
  operation, by the host's steps and by `launch`. Safe. -/
  | badConfig
  /-- A command byte of the table: the block emits it and the sensor, which has no step in a model, consumes it
  (R84). Raised by the meanings of the eight `CMD` rows. Safe. -/
  | sensorCommand
  /-- A byte that is no command byte of the table: bit 7 is set (R63, R75). Raised by `step`. Safe. -/
  | invalidCommand
  /-- A launch that does not have exactly one host (R49, R141). Raised by `launch`. Safe. -/
  | notOneHost
deriving DecidableEq, Repr

/-- What a step answers. -/
abbrev Result := Host.Outcome State Fault Refusal

/-! ### Reset -/

/-- The state after reset of an instance with configuration `c`: R31 for the registers; the port empty and the
host idle with nothing to run and nothing drawn (log 4, log 5). "The configuration ... and the `TROM`
contents are not changed by reset" (R150). -/
def State.afterReset (c : Config) : State :=
  { cfg := c
    st := .noError
    cmd := none
    tmo := none
    low := none
    high := none
    res := none
    port := none
    program := []
    activity := none
    ret := none
    trace := []
    issued := []
    draws := { bytes := [], waits := [], count := 0 } }

/-- The machine right after reset (R31, R150), for the instance `Config.hardware`. -/
def State.reset : State := State.afterReset Config.hardware

end Sys2Proof.Machine
end

