-- ==== Sys2Proof/Machine/Flags.lean ====
section
/-!
DEFINITION. Machine/Flags.lean: the valid bits, "its only flags" (spec/10_state.md R29), and the codes of the
status register (spec/00_scope.md R10).
-/
namespace Sys2Proof.Machine

/-- The 2-bit code of a status (R10). -/
def Status.code : Status → BitVec 2
  | .noError => 0
  | .badAxis => 1
  | .badPeriod => 2
  | .timeout => 3

/-- The status of a 2-bit code: "all four codes are legal values" (R21). -/
def Status.ofCode (c : BitVec 2) : Status :=
  if c = 0 then .noError else if c = 1 then .badAxis else if c = 2 then .badPeriod else .timeout

namespace State

/-- The valid bit of `CMD` (R22). -/
def cv (s : State) : Bool := s.cmd.isSome
/-- The valid bit of `TMO` (R23). -/
def tv (s : State) : Bool := s.tmo.isSome
/-- The valid bit of `LOW` (R24). -/
def lv (s : State) : Bool := s.low.isSome
/-- The valid bit of `HIGH` (R25). -/
def hv (s : State) : Bool := s.high.isSome
/-- The valid bit of `RES` (R26). -/
def rv (s : State) : Bool := s.res.isSome

end State

/-- `CV`, `TV`, `LV`, `HV`, `RV` by register; `ST` "always holds a value" (R20). -/
def State.validBit (s : State) : RegName → Bool
  | .st => true
  | .cmd => s.cv
  | .tmo => s.tv
  | .low => s.lv
  | .high => s.hv
  | .res => s.rv

end Sys2Proof.Machine
end

