-- ==== Sys2Proof/WellFormed.lean ====
section
/-!
DEFINITION. WellFormed.lean: the checks on an instruction's operands (spec/30_encoding.md R67, R63, R75).
-/
namespace Sys2Proof

/-- `axisIndex` of a command byte the block can produce: 1 to `AXIS_COUNT` (R61, R63). -/
abbrev axisIndexLegal (axisCount : Nat) (axisIndex : Nibble) : Prop :=
  1 ≤ axisIndex.toNat ∧ axisIndex.toNat ≤ axisCount

/-- Well-formedness for a block with `axisCount` axes. "Operand values are never reserved at the encoding
level" (R67), so every block operation is well-formed; a command byte must have a legal `axisIndex`. -/
def Instr.wellFormed (axisCount : Nat) : Instr → Bool
  | .enc _ _ => true
  | .tmo _ _ => true
  | .waitr _ => true
  | .ldl _ _ => true
  | .ldh _ _ => true
  | .fuse => true
  | .cmdP32 a => decide (axisIndexLegal axisCount a)
  | .cmdP64 a => decide (axisIndexLegal axisCount a)
  | .cmdP128 a => decide (axisIndexLegal axisCount a)
  | .cmdP256 a => decide (axisIndexLegal axisCount a)
  | .cmdP512 a => decide (axisIndexLegal axisCount a)
  | .cmdP1024 a => decide (axisIndexLegal axisCount a)
  | .cmdP2048 a => decide (axisIndexLegal axisCount a)
  | .cmdP4096 a => decide (axisIndexLegal axisCount a)

end Sys2Proof
end

