-- ==== Sys2Proof/Decode.lean ====
section
/-!
DEFINITION. Decode.lean: decoding of the two formats (spec/30_encoding.md R64 to R67, R74, R75), total and
rejecting by name, and after it the encoder, from the same layout.
Neither format is variable-length, and neither has a byte layout (R60, R45): a word is decoded as a number.
-/
namespace Sys2Proof

/-- Why a word spells nothing (R67, R75). -/
inductive Reject where
  /-- `op` is 0 or 7 to 15. -/
  | reservedSelect
  /-- `z`, or a field the operation does not use, is not 0. -/
  | mustBeZero
  /-- A command byte with bit 7 set: its period field is 8 to 15. -/
  | periodField
  /-- No format has this many bits. -/
  | noSuchWidth
deriving DecidableEq, Repr

/-! ### Fields of `OPW` (R64) -/

/-- Bits 55:52, the operation select. -/
def opwOp (w : Opw) : Nibble := w.extractLsb' 52 4
/-- Bits 51:48, which must be 0. -/
def opwZ (w : Opw) : Nibble := w.extractLsb' 48 4
/-- Bits 47:40, the first byte operand. -/
def opwA (w : Opw) : Byte := w.extractLsb' 40 8
/-- Bits 39:32, the second byte operand. -/
def opwB (w : Opw) : Byte := w.extractLsb' 32 8
/-- Bits 31:0, the 32-bit operand. -/
def opwT (w : Opw) : Word32 := w.extractLsb' 0 32
/-- Bit 40, the operand of `WAITR` (R71). -/
def opwX (w : Opw) : Bool := w.getLsbD 40

/-- A row of R66: the bits an operation fixes, and what it fixes them to. -/
structure OpwRow where
  mask : Opw
  val : Opw
deriving DecidableEq, Repr

/-- The masks and matches of R66. -/
def encRow : OpwRow := { mask := 0xFF0000FFFFFFFF, val := 0x10000000000000 }
def tmoRow : OpwRow := { mask := 0xFFFF0000000000, val := 0x20000000000000 }
def waitrRow : OpwRow := { mask := 0xFFFEFFFFFFFFFF, val := 0x30000000000000 }
def ldlRow : OpwRow := { mask := 0xFF0000FFFFFFFF, val := 0x40000000000000 }
def ldhRow : OpwRow := { mask := 0xFF0000FFFFFFFF, val := 0x50000000000000 }
def fuseRow : OpwRow := { mask := 0xFFFFFFFFFFFFFF, val := 0x60000000000000 }

/-- The six rows of R66 in the table's order. -/
def opwRows : List OpwRow := [encRow, tmoRow, waitrRow, ldlRow, ldhRow, fuseRow]

/-- `word & mask = match` selects the row (R66). -/
abbrev OpwRow.Selects (r : OpwRow) (w : Opw) : Prop := w &&& r.mask = r.val

/-- The second half of R74: the word must agree with the row its `op` picked, else it is reserved. -/
def decodeRow (r : OpwRow) (w : Opw) (i : Instr) : Except Reject Instr :=
  if r.Selects w then .ok i else .error .mustBeZero

/-- Decoding of an operation word (R74). -/
def decodeOpw (w : Opw) : Except Reject Instr :=
  match (opwOp w).toNat with
  | 1 => decodeRow encRow w (.enc (opwA w) (opwB w))
  | 2 => decodeRow tmoRow w (.tmo (opwB w) (opwT w))
  | 3 => decodeRow waitrRow w (.waitr (opwX w))
  | 4 => decodeRow ldlRow w (.ldl (opwA w) (opwB w))
  | 5 => decodeRow ldhRow w (.ldh (opwA w) (opwB w))
  | 6 => decodeRow fuseRow w .fuse
  | _ => .error .reservedSelect

/-! ### Fields of `CMD` (R61) -/

/-- Bits 7:4 of a command byte, the period code. -/
def cmdPeriod (c : Byte) : Nibble := c.extractLsb' 4 4
/-- Bits 3:0 of a command byte. -/
def cmdAxisIndex (c : Byte) : Nibble := c.extractLsb' 0 4

/-- The row of the opcode table a command byte belongs to: its period field picks the row, its low field is
the operand, whatever its value (the table's masks are 0xF0). Whether that value is legal is
`Instr.wellFormed` and `classifyCommand`. -/
def decodeCmd (c : Byte) : Except Reject Instr :=
  match (cmdPeriod c).toNat with
  | 0 => .ok (.cmdP32 (cmdAxisIndex c))
  | 1 => .ok (.cmdP64 (cmdAxisIndex c))
  | 2 => .ok (.cmdP128 (cmdAxisIndex c))
  | 3 => .ok (.cmdP256 (cmdAxisIndex c))
  | 4 => .ok (.cmdP512 (cmdAxisIndex c))
  | 5 => .ok (.cmdP1024 (cmdAxisIndex c))
  | 6 => .ok (.cmdP2048 (cmdAxisIndex c))
  | 7 => .ok (.cmdP4096 (cmdAxisIndex c))
  | _ => .error .periodField

/-- The verdict of R75 on a command byte. -/
inductive CommandVerdict where
  | legal (period axisIndex : Nat)
  | invalid
deriving DecidableEq, Repr

/-- R75: "the byte is legal when `period <= 7` and `1 <= axisIndex <= AXIS_COUNT`, and `invalid`
otherwise". For checking only: the block never decodes a command byte. -/
def classifyCommand (axisCount : Nat) (c : Byte) : CommandVerdict :=
  if (cmdPeriod c).toNat ≤ 7 ∧ axisIndexLegal axisCount (cmdAxisIndex c) then
    .legal (cmdPeriod c).toNat (cmdAxisIndex c).toNat
  else .invalid

/-- Decoding of a word of either format. -/
def decode : PortWord → Except Reject Instr
  | .opw w => decodeOpw w
  | .cmd c => decodeCmd c

/-- The word of `nbits` bits whose number is `w`, as the opcode table numbers bits: 56 bits are an operation
word, 8 bits a command byte, and no other width is a format (R60). -/
def portWord (nbits w : Nat) : Except Reject PortWord :=
  if nbits = 56 then .ok (.opw (BitVec.ofNat 56 w))
  else if nbits = 8 then .ok (.cmd (BitVec.ofNat 8 w))
  else .error .noSuchWidth

/-- The instruction the decoder reads from a table word. -/
def decodeTableWord (nbits w : Nat) : Option Instr :=
  match portWord nbits w with
  | .ok p => (decode p).toOption
  | .error _ => none

/-! ### The encoder -/

/-- `OPW = (op << 52) | (z << 48) | (a << 40) | (b << 32) | t` (R64). -/
def packOpw (op z : Nibble) (a b : Byte) (t : Word32) : Opw :=
  (op.setWidth 56 <<< 52) ||| (z.setWidth 56 <<< 48) ||| (a.setWidth 56 <<< 40) |||
    (b.setWidth 56 <<< 32) ||| t.setWidth 56

/-- `CMD = (period << 4) | axisIndex` (R61). -/
def packCmd (period axisIndex : Nibble) : Byte :=
  (period.setWidth 8 <<< 4) ||| axisIndex.setWidth 8

/-- The byte operand of `WAITR`: bits 47:41 zero, bit 40 is `x` (R66, R71). -/
def waitrOperand (x : Bool) : Byte := if x then 1 else 0

/-- The word of an instruction (R65, R66 for the operations, R61 for the command bytes). -/
def encode : Instr → PortWord
  | .enc axis period => .opw (packOpw 1 0 axis period 0)
  | .tmo period timeout => .opw (packOpw 2 0 0 period timeout)
  | .waitr x => .opw (packOpw 3 0 (waitrOperand x) 0 0)
  | .ldl b0 b1 => .opw (packOpw 4 0 b0 b1 0)
  | .ldh b0 b1 => .opw (packOpw 5 0 b0 b1 0)
  | .fuse => .opw (packOpw 6 0 0 0 0)
  | .cmdP32 a => .cmd (packCmd 0 a)
  | .cmdP64 a => .cmd (packCmd 1 a)
  | .cmdP128 a => .cmd (packCmd 2 a)
  | .cmdP256 a => .cmd (packCmd 3 a)
  | .cmdP512 a => .cmd (packCmd 4 a)
  | .cmdP1024 a => .cmd (packCmd 5 a)
  | .cmdP2048 a => .cmd (packCmd 6 a)
  | .cmdP4096 a => .cmd (packCmd 7 a)

/-- The row of R66 an instruction's word must match; none for a command byte. -/
def rowOf : Instr → Option OpwRow
  | .enc _ _ => some encRow
  | .tmo _ _ => some tmoRow
  | .waitr _ => some waitrRow
  | .ldl _ _ => some ldlRow
  | .ldh _ _ => some ldhRow
  | .fuse => some fuseRow
  | .cmdP32 _ => none
  | .cmdP64 _ => none
  | .cmdP128 _ => none
  | .cmdP256 _ => none
  | .cmdP512 _ => none
  | .cmdP1024 _ => none
  | .cmdP2048 _ => none
  | .cmdP4096 _ => none

end Sys2Proof
end

