-- ==== Sys2Proof/Machine/Rom.lean ====
section
/-!
DEFINITION. Machine/Rom.lean: the timeout ROM `TROM` (spec/20_memory.md R40 to R43, R48), the block's one memory.
"A model makes it a constant of the configuration layer, not a field of the state" (R43).
-/
namespace Sys2Proof.Machine

/-- The eight 16-bit words of `TROM` in address order, in microseconds (R41). -/
def tromWords : List Half := [501, 1001, 2001, 4001, 7501, 15001, 35501, 60001]

/-- `TROM[i]`, which is `MemRead(i, 1)` (R42, R14): the word at address `i`, and no word for `i > 7`. -/
def trom (i : Nat) : Option Half := tromWords[i]?

/-- The label of a period code, a name and not a time: `32 * 2^code` (R11). -/
def periodLabel (code : Nat) : Nat := 32 * 2 ^ code

/-- The sensor's nominal conversion time for a period code, in microseconds: "the `TROM` word less 1" (R160).
No operation reads it. -/
def nominalMicros (code : Nat) : Option Nat := (trom code).map fun w => w.toNat - 1

end Sys2Proof.Machine
end

