-- ==== Sys2Proof/Machine/Operands.lean ====
section
/-!
DEFINITION. Machine/Operands.lean: every operand form of the block operations: the axis (spec/30_encoding.md
R68), the period (R69), the timeout (R70), the received bytes (R71, spec/20_memory.md R44).
-/
namespace Sys2Proof.Machine

/-- The axis test of R68 and R80: `AXIS_BASE <= axis <= AXIS_BASE + AXIS_COUNT - 1`. -/
abbrev axisValid (c : Config) (axis : Byte) : Prop :=
  c.axisBase ≤ axis.toNat ∧ axis.toNat ≤ c.axisBase + c.axisCount - 1

/-- `axisIndex = axis - AXIS_BASE + 1`, the 1-based number placed in the command byte (R68). -/
def axisIndex (c : Config) (axis : Byte) : Nibble := BitVec.ofNat 4 (axis.toNat - c.axisBase + 1)

/-- The operand that names the first axis: `AXIS_BASE` (R115, D32). -/
def firstAxis (c : Config) : Byte := BitVec.ofNat 8 c.axisBase

/-- The period test of R69: `period <= 7`. -/
abbrev periodValid (period : Byte) : Prop := period.toNat ≤ 7

/-- The command byte of a valid axis and period (R61, R80). -/
def commandByte (c : Config) (axis period : Byte) : Byte :=
  packCmd (period.setWidth 4) (axisIndex c axis)

/-- The effective timeout of R90: a non-zero operand verbatim, else the period's word of `TROM`,
zero-extended, if there is one. -/
def effectiveTimeout (period : Byte) (timeout : Word32) : Option Word32 :=
  if timeout ≠ 0 then some timeout
  else if periodValid period then (trom period.toNat).map fun w => w.setWidth 32
  else none

/-- The 16-bit pattern `(b0 << 8) | b1` of two received bytes, the first the high byte (R44). -/
def sampleOf (b0 b1 : Byte) : Half := (b0.setWidth 16 <<< 8) ||| b1.setWidth 16

end Sys2Proof.Machine
end

