-- ==== Sys2Proof/Machine/Ops.lean ====
section
/-!
DEFINITION. Machine/Ops.lean: the named operations over the registers, the report of an error, which is what
this block has in place of an exception (spec/60_exceptions.md R130, R136), and the host's primitives
(spec/43_sequences.md R110).
-/
namespace Sys2Proof.Machine

/-! ### The configuration -/

/-- R142: a configuration outside the legal values is refused by name, and "a refusal gives the program no
meaning at all". -/
def requireConfig (c : Config) (r : Result) : Result :=
  if c.Legal then r else .refused .badConfig

/-! ### Registers -/

/-- The number of a register: `x[i]` is register `i` (R20). -/
def RegName.number : RegName → Nat
  | .st => 0
  | .cmd => 1
  | .tmo => 2
  | .low => 3
  | .high => 4
  | .res => 5

/-- The register of a number (R20). -/
def RegName.ofNumber : Nat → Option RegName
  | 0 => some .st
  | 1 => some .cmd
  | 2 => some .tmo
  | 3 => some .low
  | 4 => some .high
  | 5 => some .res
  | _ => none

/-- The host's read of a register, "valid bit and payload together as an option value" (R20), the payload as
the number its type denotes: `ST` the code, `CMD` and `TMO` unsigned, the samples and `RES` signed. -/
def State.readReg (s : State) : RegName → Option Int
  | .st => some s.st.code.toNat
  | .cmd => s.cmd.map fun v => (v.toNat : Int)
  | .tmo => s.tmo.map fun v => (v.toNat : Int)
  | .low => s.low.map fun v => v.toInt
  | .high => s.high.map fun v => v.toInt
  | .res => s.res.map fun v => v.toInt

/-- `X <- none` (R13). `ST` has no valid bit and is left alone. -/
def State.invalidate (s : State) : RegName → State
  | .st => s
  | .cmd => { s with cmd := none }
  | .tmo => { s with tmo := none }
  | .low => { s with low := none }
  | .high => { s with high := none }
  | .res => { s with res := none }

/-- The report of an error, "in full: `ST` takes the code; the destination of the failing operation becomes
`none`; every other register keeps its value" (R136). `WAITR` "has no destination": it passes `.st`. There is
nothing saved and nothing to return from (R137). -/
def State.reportError (s : State) (code : Status) (dest : RegName) : State :=
  { s.invalidate dest with st := code }

/-- A completed operation's status: `ST <- NoError` (R134). -/
def State.reportSuccess (s : State) : State := { s with st := .noError }

/-! ### The command bytes -/

/-- What a command byte is to the block: "The block does not execute them; it emits them. ... A model gives
these rows no step: the sensor is environment" (R84). -/
def sensorOnly (_ : State) : Result := .refused .sensorCommand

/-! ### The host -/

/-- The host issues a block operation: it presents the operation's word on the port, where the block takes it
at the next step (R4, R51). -/
def State.issue (s : State) (i : Instr) : State :=
  { s with port := some (encode i), issued := s.issued ++ [i] }

/-- `emit e` appends an event to the trace (R14, R110). -/
def State.emit (s : State) (e : Event) : State := { s with trace := s.trace ++ [e] }

/-- `draw b in 0..255` (R15 a). -/
def State.drawByte (s : State) : Byte × State :=
  match s.draws.bytes with
  | b :: bs => (b, { s with draws := { s.draws with bytes := bs } })
  | [] => (Config.freeByte s.draws.count, { s with draws := { s.draws with count := s.draws.count + 1 } })

/-- `draw w in` {`Ready`, `Expired`} (R15 b). -/
def State.drawWait (s : State) : WaitOutcome × State :=
  match s.draws.waits with
  | w :: ws => (w, { s with draws := { s.draws with waits := ws } })
  | [] =>
    (if Config.freeExpired s.draws.count then .expired else .ready,
      { s with draws := { s.draws with count := s.draws.count + 1 } })

end Sys2Proof.Machine
end

