-- ==== Sys2Proof/Machine/Encoder.lean ====
section
/-!
DEFINITION. Machine/Encoder.lean: the command encoder `ENC` (spec/40_encode.md R80 to R83) and the eight
command-byte rows it emits (R84).
-/
namespace Sys2Proof.Machine

/-- `ENC axis, period` (R80): the axis is tested before the period (R81); a failure reports its code and
invalidates `CMD`. -/
def execEnc (axis period : Byte) (s : State) : Result :=
  requireConfig s.cfg <|
    if ¬ axisValid s.cfg axis then .next (s.reportError .badAxis .cmd)
    else if ¬ periodValid period then .next (s.reportError .badPeriod .cmd)
    else .next { s.reportSuccess with cmd := some (commandByte s.cfg axis period) }

/-- `CMD.P32` (R84). -/
def execCmdP32 (_ : Nibble) (s : State) : Result := sensorOnly s
/-- `CMD.P64` (R84). -/
def execCmdP64 (_ : Nibble) (s : State) : Result := sensorOnly s
/-- `CMD.P128` (R84). -/
def execCmdP128 (_ : Nibble) (s : State) : Result := sensorOnly s
/-- `CMD.P256` (R84). -/
def execCmdP256 (_ : Nibble) (s : State) : Result := sensorOnly s
/-- `CMD.P512` (R84). -/
def execCmdP512 (_ : Nibble) (s : State) : Result := sensorOnly s
/-- `CMD.P1024` (R84). -/
def execCmdP1024 (_ : Nibble) (s : State) : Result := sensorOnly s
/-- `CMD.P2048` (R84). -/
def execCmdP2048 (_ : Nibble) (s : State) : Result := sensorOnly s
/-- `CMD.P4096` (R84). -/
def execCmdP4096 (_ : Nibble) (s : State) : Result := sensorOnly s

end Sys2Proof.Machine
end

