-- ==== Sys2Proof/Machine/Fusion.lean ====
section
/-!
DEFINITION. Machine/Fusion.lean: the sample loads `LDL` and `LDH` (spec/42_fusion.md R100, R101) and the
precision fusion `FUSE` with its integer laws (R102 to R106).
-/
namespace Sys2Proof.Machine

/-- `LDL b0, b1` (R100). -/
def execLdl (b0 b1 : Byte) (s : State) : Result :=
  requireConfig s.cfg <| .next { s with low := some (sampleOf b0 b1) }

/-- `LDH b0, b1` (R101). -/
def execLdh (b0 b1 : Byte) (s : State) : Result :=
  requireConfig s.cfg <| .next { s with high := some (sampleOf b0 b1) }

/-- `mod2(h)` (R104): 0 for an even `h`, 1 for a positive odd one, `MOD2_NEG_ODD` for a negative odd one. -/
def mod2 (c : Config) (h : Int) : Int :=
  if h % 2 = 0 then 0 else if 0 < h then 1 else c.mod2NegOdd

/-- The near-saturation band, both ends inclusive (R102, R105). -/
abbrev lowSaturated (low : Int) : Prop := low ≤ -16000 ∨ 16000 ≤ low

/-- The fused value as an exact integer (R102, R103). -/
def fuseValue (c : Config) (low high : Int) : Int :=
  if lowSaturated low then low * 2 + mod2 c high else high

/-- `FUSE` (R102): both samples are consumed; with either invalid it is a fault (R106). -/
def execFuse (s : State) : Result :=
  requireConfig s.cfg <|
    match s.low, s.high with
    | some l, some h =>
      .next { s with
        res := some (BitVec.ofInt 32 (fuseValue s.cfg l.toInt h.toInt))
        low := none
        high := none }
    | _, _ => .fault .fuseOperandInvalid

end Sys2Proof.Machine
end

