-- ==== Sys2Proof/Machine/Timeout.lean ====
section
/-!
DEFINITION. Machine/Timeout.lean: the timeout lookup `TMO` (spec/41_timeout.md R90, R91), the record of the
wait's outcome `WAITR` (R92), and the rule of the polled wait the host runs between them (R93).
-/
namespace Sys2Proof.Machine

/-- `TMO period, timeout` (R90). -/
def execTmo (period : Byte) (timeout : Word32) (s : State) : Result :=
  requireConfig s.cfg <|
    match effectiveTimeout period timeout with
    | some t => .next { s.reportSuccess with tmo := some t }
    | none => .next (s.reportError .badPeriod .tmo)

/-- `WAITR x` (R92). -/
def execWaitr (x : Bool) (s : State) : Result :=
  requireConfig s.cfg <|
    if x then .next (s.reportError .timeout .st) else .next s.reportSuccess

/-! ### The polled wait (R93)

The step draws the outcome (R15, D26): "a model has no clock". The loop itself is stated here as R93 gives it,
so that its strict comparison can be claimed. -/

/-- `elapsed <- (nowMicros() - start) mod 2^64`, and `elapsed > zext_64(T)` (R93). -/
def waitExpired (start now : Clock) (t : Word32) : Bool := decide (t.toNat < (now - start).toNat)

/-- The loop of R93 over the passes it makes, each the ready line's reading and then the clock's: the line is
tested first, then the clock (D15). `none` when no pass leaves the loop. -/
def pollLoop (start : Clock) (t : Word32) : List (Bool × Clock) → Option WaitOutcome
  | [] => none
  | (lineReady, now) :: rest =>
    if lineReady then some .ready
    else if waitExpired start now t then some .expired
    else pollLoop start t rest

end Sys2Proof.Machine
end

