-- ==== Sys2Proof/Machine/Dispatch.lean ====
section
/-!
DEFINITION. Machine/Dispatch.lean: one arm per constructor of Instr, each one call of its meaning.
-/
namespace Sys2Proof.Machine

/-- The meaning of an instruction at a state. -/
def exec (i : Instr) (s : State) : Host.Outcome State Fault Refusal :=
  match i with
  | .enc axis period => Sys2Proof.Machine.execEnc axis period s
  | .tmo period timeout => Sys2Proof.Machine.execTmo period timeout s
  | .waitr x => Sys2Proof.Machine.execWaitr x s
  | .ldl b0 b1 => Sys2Proof.Machine.execLdl b0 b1 s
  | .ldh b0 b1 => Sys2Proof.Machine.execLdh b0 b1 s
  | .fuse => Sys2Proof.Machine.execFuse s
  | .cmdP32 a => Sys2Proof.Machine.execCmdP32 a s
  | .cmdP64 a => Sys2Proof.Machine.execCmdP64 a s
  | .cmdP128 a => Sys2Proof.Machine.execCmdP128 a s
  | .cmdP256 a => Sys2Proof.Machine.execCmdP256 a s
  | .cmdP512 a => Sys2Proof.Machine.execCmdP512 a s
  | .cmdP1024 a => Sys2Proof.Machine.execCmdP1024 a s
  | .cmdP2048 a => Sys2Proof.Machine.execCmdP2048 a s
  | .cmdP4096 a => Sys2Proof.Machine.execCmdP4096 a s

end Sys2Proof.Machine
end

