-- ==== Sys2Proof/Machine/Sequences.lean ====
section
/-!
DEFINITION. Machine/Sequences.lean: the five driver calls of spec/43_sequences.md R111 to R115, one step a line
of their pseudocode, with the early return of R116. The host reads registers and issues operations; it writes
no register (R20).
-/
namespace Sys2Proof.Machine

/-- `CONVERT axis, period` (R111). The byte is sent only when `CV` is set (R158). -/
def stepConvert (axis period : Byte) (p : ConvertPoint) (s : State) : Progress ConvertPoint Status :=
  match p with
  | .enc => .goto .test (s.issue (.enc axis period))
  | .test => if s.st ≠ .noError then .done s.st s else .goto .sel s
  | .sel => .goto .pulse (s.emit .sel)
  | .pulse => .goto .tx (s.emit .rstPulse)
  | .tx =>
    match s.cmd with
    | some c => .goto .desel (s.emit (.tx c))
    | none => .fault .invalidRegisterRead
  | .desel => .goto .ret (s.emit .desel)
  | .ret => .done .noError s

/-- The load a destination letter stands for (R112). -/
def loadInstr (d : Dest) (b0 b1 : Byte) : Instr :=
  match d with
  | .low => .ldl b0 b1
  | .high => .ldh b0 b1

/-- `GETRESULT d` (R112): each byte is drawn from the environment. -/
def stepGet (d : Dest) (p : GetPoint) (s : State) : Progress GetPoint Int :=
  match p with
  | .sel => .goto .rx0 (s.emit .sel)
  | .rx0 => .goto (.rx1 s.drawByte.1) (s.drawByte.2.emit (.rx s.drawByte.1))
  | .rx1 b0 => .goto (.desel b0 s.drawByte.1) (s.drawByte.2.emit (.rx s.drawByte.1))
  | .desel b0 b1 => .goto (.load b0 b1) (s.emit .desel)
  | .load b0 b1 => .goto (.ret b0 b1) (s.issue (loadInstr d b0 b1))
  | .ret b0 b1 => .done (sampleOf b0 b1).toInt s

/-- `READ d, axis, period, timeout` (R113). -/
def stepRead (d : Dest) (axis period : Byte) (timeout : Word32) (p : ReadPoint) (s : State) :
    Progress ReadPoint Ret :=
  match p with
  | .converting q =>
    match stepConvert axis period q s with
    | .goto q' s' => .goto (.converting q') s'
    | .done code s' =>
      if code ≠ .noError then .done { status := some code, value := none } s' else .goto .tmo s'
    | .fault f => .fault f
  | .tmo => .goto .test (s.issue (.tmo period timeout))
  | .test => if s.st ≠ .noError then .done { status := some s.st, value := none } s else .goto .latch s
  | .latch =>
    match s.tmo with
    | some t => .goto (.wait t) s
    | none => .fault .invalidRegisterRead
  | .wait t =>
    if s.cfg.readyWired then .goto (.report s.drawWait.1) (s.drawWait.2.emit (.poll t))
    else .goto (.getting .sel) (s.emit (.delay t))
  | .report w => .goto (.judge w) (s.issue (.waitr (w = .expired)))
  | .judge w =>
    match w with
    | .expired => .done { status := some .timeout, value := none } s
    | .ready => .goto (.getting .sel) s
  | .getting q =>
    match stepGet d q s with
    | .goto q' s' => .goto (.getting q') s'
    | .done v s' => .done { status := some .noError, value := some v } s'
    | .fault f => .fault f

/-- `READHP axis, timeout` (R114): period code 6 into `LOW`, then code 7 into `HIGH`, then `FUSE`. -/
def stepReadHp (axis : Byte) (timeout : Word32) (p : ReadHpPoint) (s : State) :
    Progress ReadHpPoint Ret :=
  match p with
  | .low q =>
    match stepRead .low axis 6 timeout q s with
    | .goto q' s' => .goto (.low q') s'
    | .done r s' =>
      if r.status ≠ some .noError then .done { status := r.status, value := none } s'
      else .goto (.high (.converting .enc)) s'
    | .fault f => .fault f
  | .high q =>
    match stepRead .high axis 7 timeout q s with
    | .goto q' s' => .goto (.high q') s'
    | .done r s' =>
      if r.status ≠ some .noError then .done { status := r.status, value := none } s' else .goto .fuse s'
    | .fault f => .fault f
  | .fuse => .goto .ret (s.issue .fuse)
  | .ret =>
    match s.res with
    | some v => .done { status := some .noError, value := some v.toInt } s
    | none => .fault .invalidRegisterRead

/-- `BEGIN` (R115): the ready line is made an input only if it is wired; the sample is discarded. -/
def stepBegin (p : BeginPoint) (s : State) : Progress BeginPoint Ret :=
  match p with
  | .dirSelect => .goto .dirReset (s.emit (.dir .select .output))
  | .dirReset => .goto .dirReady (s.emit (.dir .reset .output))
  | .dirReady => .goto .desel (if s.cfg.readyWired then s.emit (.dir .ready .input) else s)
  | .desel => .goto .rstIdle (s.emit .desel)
  | .rstIdle => .goto .busCfg (s.emit .rstIdle)
  | .busCfg => .goto (.reading (.converting .enc)) (s.emit .busCfg)
  | .reading q =>
    match stepRead .low (firstAxis s.cfg) 0 0 q s with
    | .goto q' s' => .goto (.reading q') s'
    | .done r s' => .done { status := r.status, value := none } s'
    | .fault f => .fault f

/-- The first position of a call. -/
def enter : Call → Activity
  | .convert axis period => .convert axis period .enc
  | .getResult d => .getResult d .sel
  | .read d axis period timeout => .read d axis period timeout (.converting .enc)
  | .readHp axis timeout => .readHp axis timeout (.low (.converting .enc))
  | .begin => .begin .dirSelect

/-- One step of the sequence in progress. `CONVERT` returns a status and no value, `GETRESULT` a value and no
status (R111, R112). -/
def stepActivity (a : Activity) (s : State) : Progress Activity Ret :=
  match a with
  | .convert axis period p =>
    match stepConvert axis period p s with
    | .goto p' s' => .goto (.convert axis period p') s'
    | .done code s' => .done { status := some code, value := none } s'
    | .fault f => .fault f
  | .getResult d p =>
    match stepGet d p s with
    | .goto p' s' => .goto (.getResult d p') s'
    | .done v s' => .done { status := none, value := some v } s'
    | .fault f => .fault f
  | .read d axis period timeout p =>
    match stepRead d axis period timeout p s with
    | .goto p' s' => .goto (.read d axis period timeout p') s'
    | .done r s' => .done r s'
    | .fault f => .fault f
  | .readHp axis timeout p =>
    match stepReadHp axis timeout p s with
    | .goto p' s' => .goto (.readHp axis timeout p') s'
    | .done r s' => .done r s'
    | .fault f => .fault f
  | .begin p =>
    match stepBegin p s with
    | .goto p' s' => .goto (.begin p') s'
    | .done r s' => .done r s'
    | .fault f => .fault f

/-- The host begins its next line: a bare operation word goes to the port; a call starts with an empty trace
(R110). With no line left the host issues nothing, and nothing changes (R150).
DESIGN CHOICE (log 22): a program is a straight line, and the next line is begun whatever the call before it
returned, a `Timeout` of `BEGIN` included. The spec leaves that to the caller, "who decides whether to retry" (R118,
R137), and says of a host that goes on after a failed `BEGIN` that what happens "is not in the source" (R152). -/
def startNext (s : State) : State :=
  match s.program with
  | [] => s
  | .word w :: rest => { s with port := some (.opw w), program := rest }
  | .call c :: rest =>
    { s with program := rest, activity := some (enter c), ret := none, trace := [], issued := [] }

/-- One step of the host while the port is empty (R4, R110). A call's return ends it and is kept in `ret`; what the
host does next does not depend on it (DESIGN CHOICE, log 22). -/
def hostStep (s : State) : Result :=
  requireConfig s.cfg <|
    match s.activity with
    | none => .next (startNext s)
    | some a =>
      match stepActivity a s with
      | .goto a' s' => .next { s' with activity := some a' }
      | .done r s' => .next { s' with activity := none, ret := some r }
      | .fault f => .fault f

/-- The launch of a program from reset: "`refuse BadConfig`" for an illegal configuration (R142), and "a model
has a single host agent and refuses a launch with two" (R49). The lines are not looked at: a reserved word among them
is refused when a step takes it (DESIGN CHOICE, log 10). -/
def launch (c : Config) (hosts : List (List Line)) : Result :=
  requireConfig c <|
    match hosts with
    | [lines] => .next { State.afterReset c with program := lines }
    | _ => .refused .notOneHost

end Sys2Proof.Machine
end

