-- ==== Sys2Proof/Machine/Step.lean ====
section
/-!
DEFINITION. Machine/Step.lean: one step of the machine. There is no program counter (spec/10_state.md R28):
"the operation word comes from the host port at each issue" (spec/20_memory.md R51). A word on the port is taken
and run by the block; with the port empty, the host goes on.
-/
namespace Sys2Proof.Machine

/-- The refusal of a word that decodes to nothing (R67, R75, R142). -/
def rejected : PortWord → Refusal
  | .opw _ => .reservedOp
  | .cmd _ => .invalidCommand

/-- The block takes a word from the port, decodes it and runs it, each operation to completion (R49, R74).
DESIGN CHOICE (log 10): a reserved word of a program is refused here, at the step that takes it, the lines before it
having run; R67 and R142 say only that such a program gets no meaning. -/
def runWord (w : PortWord) (s : State) : Result :=
  match decode w with
  | .ok i => exec i s
  | .error _ => .refused (rejected w)

/-- One step of the machine. -/
def step (s : State) : Host.Outcome State Fault Refusal :=
  match s.port with
  | some w => runWord w { s with port := none }
  | none => hostStep s

/-- `s` with the table word `w` of `nbits` bits presented on the port, where `step` takes its next
instruction. A width of no format presents nothing. -/
def State.withFetchWord (s : State) (nbits w : Nat) : State :=
  match portWord nbits w with
  | .ok p => { s with port := some p }
  | .error _ => s

end Sys2Proof.Machine
end

