-- ==== Sys2Proof/Machine/Assembler.lean ====
section
/-!
DEFINITION. Machine/Assembler.lean: the assembler lines of spec/30_encoding.md R72 and the pseudo-instructions of
R73, read from characters into lines of a host program. "One operation per line; mnemonic in capitals; operands
separated by commas; numbers decimal or `0x` hexadecimal; `;` starts a comment" (R72). The step function reads
lines, never text.
-/
namespace Sys2Proof.Machine

/-- The value of a decimal or hexadecimal digit. -/
def digitValue (c : Char) : Option Nat :=
  if 48 ≤ c.toNat ∧ c.toNat ≤ 57 then some (c.toNat - 48)
  else if 97 ≤ c.toNat ∧ c.toNat ≤ 102 then some (c.toNat - 87)
  else if 65 ≤ c.toNat ∧ c.toNat ≤ 70 then some (c.toNat - 55)
  else none

/-- The number a row of digits spells in a base, after `acc`. -/
def readDigits (base : Nat) : Nat → List Char → Option Nat
  | acc, [] => some acc
  | acc, c :: cs =>
    match digitValue c with
    | some d => if d < base then readDigits base (acc * base + d) cs else none
    | none => none

/-- A number: decimal, or hexadecimal after `0x`. -/
def readNumber : List Char → Option Nat
  | [] => none
  | ['0', 'x'] => none
  | '0' :: 'x' :: ds => readDigits 16 0 ds
  | ds => readDigits 10 0 ds

/-- An operand of `n` bits. -/
def readBits (n : Nat) (cs : List Char) : Option (BitVec n) :=
  match readNumber cs with
  | some v => if v < 2 ^ n then some (BitVec.ofNat n v) else none
  | none => none

/-- The one-bit operand of `WAITR` (R71). -/
def readFlag (cs : List Char) : Option Bool :=
  match readNumber cs with
  | some 0 => some false
  | some 1 => some true
  | _ => none

/-- The destination letter (R73). -/
def readDest : List Char → Option Dest
  | ['L'] => some .low
  | ['H'] => some .high
  | _ => none

/-- The word read so far, if there is one. -/
def flush (word : List Char) : List (List Char) := if word = [] then [] else [word.reverse]

/-- The words and commas of a line; `word` is the word being read, last character first. -/
def tokens : List Char → List Char → List (List Char)
  | word, [] => flush word
  | word, c :: cs =>
    if c = ' ' ∨ c = '\t' then flush word ++ tokens [] cs
    else if c = ',' then flush word ++ [','] :: tokens [] cs
    else tokens (c :: word) cs

/-- Operands separated by commas. -/
def operands : List (List Char) → Option (List (List Char))
  | [] => some []
  | [t] => if t = [','] then none else some [t]
  | t :: comma :: rest =>
    if t ≠ [','] ∧ comma = [','] ∧ rest ≠ [] then (operands rest).map fun ts => t :: ts else none

/-- A bare operation as a line: its operation word. -/
def opLine (i : Instr) : Option Line :=
  match encode i with
  | .opw w => some (.word w)
  | .cmd _ => none

/-- The line of a mnemonic and its operands (R72, R73); an omitted timeout means 0. -/
def lineOf (mnemonic : List Char) (ops : List (List Char)) : Option Line :=
  match mnemonic, ops with
  | ['E', 'N', 'C'], [a, p] => do opLine (.enc (← readBits 8 a) (← readBits 8 p))
  | ['T', 'M', 'O'], [p, t] => do opLine (.tmo (← readBits 8 p) (← readBits 32 t))
  | ['W', 'A', 'I', 'T', 'R'], [x] => do opLine (.waitr (← readFlag x))
  | ['L', 'D', 'L'], [b0, b1] => do opLine (.ldl (← readBits 8 b0) (← readBits 8 b1))
  | ['L', 'D', 'H'], [b0, b1] => do opLine (.ldh (← readBits 8 b0) (← readBits 8 b1))
  | ['F', 'U', 'S', 'E'], [] => opLine .fuse
  | ['C', 'O', 'N', 'V', 'E', 'R', 'T'], [a, p] => do
    some (.call (.convert (← readBits 8 a) (← readBits 8 p)))
  | ['G', 'E', 'T', 'R', 'E', 'S', 'U', 'L', 'T'], [d] => do some (.call (.getResult (← readDest d)))
  | ['R', 'E', 'A', 'D'], [d, a, p] => do
    some (.call (.read (← readDest d) (← readBits 8 a) (← readBits 8 p) 0))
  | ['R', 'E', 'A', 'D'], [d, a, p, t] => do
    some (.call (.read (← readDest d) (← readBits 8 a) (← readBits 8 p) (← readBits 32 t)))
  | ['R', 'E', 'A', 'D', 'H', 'P'], [a] => do some (.call (.readHp (← readBits 8 a) 0))
  | ['R', 'E', 'A', 'D', 'H', 'P'], [a, t] => do some (.call (.readHp (← readBits 8 a) (← readBits 32 t)))
  | ['B', 'E', 'G', 'I', 'N'], [] => some (.call .begin)
  | _, _ => none

/-- One line of assembler text: no line for a blank or comment line, `none` for text that is no line of R72. -/
def assembleLine (text : List Char) : Option (List Line) :=
  match tokens [] (text.takeWhile fun c => decide (c ≠ ';')) with
  | [] => some []
  | mnemonic :: rest => do
    let l ← lineOf mnemonic (← operands rest)
    some [l]

/-- A program: its lines in order. -/
def assemble : List (List Char) → Option (List Line)
  | [] => some []
  | text :: rest => do some ((← assembleLine text) ++ (← assemble rest))

end Sys2Proof.Machine
end

