-- ==== Sys2Proof/Safety.lean ====
section
/-!
DEFINITION. Safety.lean: the terms claims are made in: which registers an operation may write (spec/10_state.md
R27), what the rest of the state is, what the rules promise of register contents, and when the host's position
and the registers agree.
-/
namespace Sys2Proof.Machine

/-! ### Frames -/

/-- The `w` marks of the access matrix (R27). -/
def writes : Instr → RegName → Bool
  | .enc _ _, .st => true
  | .enc _ _, .cmd => true
  | .tmo _ _, .st => true
  | .tmo _ _, .tmo => true
  | .waitr _, .st => true
  | .ldl _ _, .low => true
  | .ldh _ _, .high => true
  | .fuse, .low => true
  | .fuse, .high => true
  | .fuse, .res => true
  | _, _ => false

/-- The `r` marks of the access matrix (R27). -/
def reads : Instr → RegName → Bool
  | .fuse, .low => true
  | .fuse, .high => true
  | _, _ => false

/-- Two states agree on a register, valid bit and payload. -/
def State.Agree (r : RegName) (s t : State) : Prop :=
  match r with
  | .st => t.st = s.st
  | .cmd => t.cmd = s.cmd
  | .tmo => t.tmo = s.tmo
  | .low => t.low = s.low
  | .high => t.high = s.high
  | .res => t.res = s.res

/-- Two states agree on everything but the block's six registers. -/
structure SameHost (s t : State) : Prop where
  cfg : t.cfg = s.cfg
  port : t.port = s.port
  program : t.program = s.program
  activity : t.activity = s.activity
  ret : t.ret = s.ret
  trace : t.trace = s.trace
  issued : t.issued = s.issued
  draws : t.draws = s.draws

/-- Two states agree on the configuration and the block's six registers. -/
structure SameBlock (s t : State) : Prop where
  cfg : t.cfg = s.cfg
  st : t.st = s.st
  cmd : t.cmd = s.cmd
  tmo : t.tmo = s.tmo
  low : t.low = s.low
  high : t.high = s.high
  res : t.res = s.res

/-! ### What the rules promise of register contents -/

/-- A legal configuration (R142); a valid `CMD` is a byte of the legal set (R62, R63); a valid `TMO` is not 0
(R23); a valid `RES` lies in -65537 to 65535 (R26). -/
structure BlockInv (s : State) : Prop where
  cfg : s.cfg.Legal
  cmd : ∀ c, s.cmd = some c → classifyCommand s.cfg.axisCount c ≠ .invalid
  tmo : ∀ t, s.tmo = some t → t ≠ 0
  res : ∀ v, s.res = some v → -65537 ≤ v.toInt ∧ v.toInt ≤ 65535

/-! ### When the host's position and the registers agree

A position after an issued operation is reached twice: with the operation's word still on the port, and with the
operation done. `Awaiting i before after` says what holds at each time. -/

/-- The operation `i` is on the port and `before` holds, or the port is empty and `after` holds. -/
def State.Awaiting (s : State) (i : Instr) (before after : Prop) : Prop :=
  (s.port = some (encode i) ∧ before) ∨ (s.port = none ∧ after)

/-- Agreement at a position of `CONVERT`: after `ENC`, `ST = NoError` means `CV = 1` (R111). -/
def ConvertPoint.Coherent (axis period : Byte) (s : State) : ConvertPoint → Prop
  | .enc => s.port = none
  | .test => s.Awaiting (.enc axis period) True (s.st = .noError → s.cv = true)
  | .sel => s.port = none ∧ s.cv = true
  | .pulse => s.port = none ∧ s.cv = true
  | .tx => s.port = none ∧ s.cv = true
  | .desel => s.port = none
  | .ret => s.port = none

/-- The valid bit of a destination letter's register. -/
def State.destValid (s : State) : Dest → Bool
  | .low => s.lv
  | .high => s.hv

/-- Agreement at a position of `GETRESULT` (R112). -/
def GetPoint.Coherent (d : Dest) (s : State) : GetPoint → Prop
  | .sel => s.port = none
  | .rx0 => s.port = none
  | .rx1 _ => s.port = none
  | .desel _ _ => s.port = none
  | .load _ _ => s.port = none
  | .ret b0 b1 => s.Awaiting (loadInstr d b0 b1) True (s.destValid d = true)

/-- Agreement at a position of `READ` (R113). -/
def ReadPoint.Coherent (d : Dest) (axis period : Byte) (timeout : Word32) (s : State) : ReadPoint → Prop
  | .converting q => q.Coherent axis period s
  | .tmo => s.port = none
  | .test => s.Awaiting (.tmo period timeout) True (s.st = .noError → s.tv = true)
  | .latch => s.port = none ∧ s.tv = true
  | .wait _ => s.port = none
  | .report _ => s.port = none
  | .judge w => s.Awaiting (.waitr (w = .expired)) True True
  | .getting q => q.Coherent d s

/-- Agreement at a position of `READHP`: the low sample stays valid through the second sub-read (R114). -/
def ReadHpPoint.Coherent (axis : Byte) (timeout : Word32) (s : State) : ReadHpPoint → Prop
  | .low q => q.Coherent .low axis 6 timeout s
  | .high q => q.Coherent .high axis 7 timeout s ∧ s.lv = true
  | .fuse => s.port = none ∧ s.lv = true ∧ s.hv = true
  | .ret => s.Awaiting .fuse (s.lv = true ∧ s.hv = true) (s.rv = true)

/-- Agreement at a position of `BEGIN` (R115). -/
def BeginPoint.Coherent (s : State) : BeginPoint → Prop
  | .dirSelect => s.port = none
  | .dirReset => s.port = none
  | .dirReady => s.port = none
  | .desel => s.port = none
  | .rstIdle => s.port = none
  | .busCfg => s.port = none
  | .reading q => q.Coherent .low (firstAxis s.cfg) 0 0 s

/-- Agreement at the host's position; an idle host has nothing on the port. -/
def activityCoherent (s : State) : Option Activity → Prop
  | none => s.port = none
  | some (.convert axis period p) => p.Coherent axis period s
  | some (.getResult d p) => p.Coherent d s
  | some (.read d axis period timeout p) => p.Coherent d axis period timeout s
  | some (.readHp axis timeout p) => p.Coherent axis timeout s
  | some (.begin p) => p.Coherent s

/-- A host that issues nothing but the five driver calls, in a run that has kept to them (R110, R155). -/
structure HostInv (s : State) : Prop where
  cfg : s.cfg.Legal
  program : ∀ l ∈ s.program, ∃ c, l = .call c
  activity : activityCoherent s s.activity

/-! ### Waiting and the ready line -/

/-- The wait's outcome is in hand: the position exists only after a polled wait (R93, R113). -/
def ReadPoint.polled : ReadPoint → Bool
  | .report _ => true
  | .judge _ => true
  | _ => false

/-- `ReadPoint.polled` of the read in progress, if one is. -/
def Activity.polled : Activity → Bool
  | .read _ _ _ _ p => p.polled
  | .readHp _ _ (.low p) => p.polled
  | .readHp _ _ (.high p) => p.polled
  | .begin (.reading p) => p.polled
  | _ => false

/-- An event a host with the ready line wired (`wired` true) or not wired can emit: it polls or sets up the
ready line only when it is wired, and uses the fixed delay only when it is not (R93, R94, R115). -/
def Event.allowed (wired : Bool) : Event → Bool
  | .poll _ => wired
  | .delay _ => !wired
  | .dir .ready _ => wired
  | _ => true

/-- `WAITR` is issued only with the ready line wired (R92 b). -/
def opAllowed (wired : Bool) : Instr → Bool
  | .waitr _ => wired
  | _ => true

/-- What the host has done and where it is agree with `READY_WIRED`. -/
structure WaitInv (s : State) : Prop where
  trace : ∀ e ∈ s.trace, e.allowed s.cfg.readyWired = true
  issued : ∀ i ∈ s.issued, opAllowed s.cfg.readyWired i = true
  activity : ∀ a, s.activity = some a → a.polled = true → s.cfg.readyWired = true

/-- "Composite operations ... never return a sample alongside a non-success status" (R116): a value comes with
`NoError`, or from `GETRESULT`, which returns no status. -/
def RetInv (s : State) : Prop :=
  ∀ r, s.ret = some r → ∀ code, r.status = some code → code ≠ .noError → r.value = none

/-- A run's outcome is safe when it stopped for no reason: neither a fault nor a refusal. -/
def Safe : Result → Prop
  | .next _ => True
  | .fault _ => False
  | .refused _ => False

/-- The launch premise of any claim about sequences after boot: "`BEGIN` returned `NoError`" (R152). -/
def BeginSucceeded (s : State) : Prop :=
  s.activity = none ∧ s.port = none ∧ s.ret = some { status := some .noError, value := none } ∧
    ∃ rest, s.trace = .dir .select .output :: .dir .reset .output :: rest

/-- The state is one a run comes to after `BEGIN` returned `NoError` (R152): the premise as a claim about a later
sequence takes it. -/
def AfterBegin (s : State) : Prop :=
  ∃ (b : State) (m : Nat), BeginSucceeded b ∧ Host.Core.run Sys2Proof.core m b = .next s

/-! ### What a call may return -/

/-- The status of `ENC` on these operands: the axis is tested first (R80, R81). -/
def encStatus (c : Config) (axis period : Byte) : Status :=
  if ¬ axisValid c axis then .badAxis else if ¬ periodValid period then .badPeriod else .noError

/-- A polled wait expired, which takes a wired ready line: `(Timeout, none)` (R94, R113, R133). -/
def TimedOut (c : Config) (r : Ret) : Prop :=
  c.readyWired = true ∧ r = { status := some .timeout, value := none }

/-- What a call can return, whatever the environment does: the "Status returned" of R111 to R115, and the value beside
it. A sample is a signed 16-bit number (R112), a fused one lies in -65537 to 65535 (R26). -/
def CallOutcome (c : Config) (call : Call) (r : Ret) : Prop :=
  match call with
  | .convert axis period => r = { status := some (encStatus c axis period), value := none }
  | .getResult _ => ∃ v : Half, r = { status := none, value := some v.toInt }
  | .read _ axis period _ =>
    if encStatus c axis period = .noError then
      TimedOut c r ∨ ∃ v : Half, r = { status := some .noError, value := some v.toInt }
    else r = { status := some (encStatus c axis period), value := none }
  | .readHp axis _ =>
    if axisValid c axis then
      TimedOut c r ∨
        ∃ v : Int, -65537 ≤ v ∧ v ≤ 65535 ∧ r = { status := some .noError, value := some v }
    else r = { status := some .badAxis, value := none }
  | .begin => TimedOut c r ∨ r = { status := some .noError, value := none }

/-! ### Traces and operations of the sequences, as R111 to R115 list them -/

/-- The events of a successful `CONVERT` (R111). -/
def convertTrace (c : Byte) : List Event := [.sel, .rstPulse, .tx c, .desel]

/-- The events of `GETRESULT` (R112). -/
def getTrace (b0 b1 : Byte) : List Event := [.sel, .rx b0, .rx b1, .desel]

/-- The event of the wait: polled when the ready line is wired, else a fixed delay (R113). -/
def waitEvent (wired : Bool) (t : Word32) : Event := if wired then .poll t else .delay t

/-- The events of a successful `READ` (R113). -/
def readTrace (wired : Bool) (c : Byte) (t : Word32) (b0 b1 : Byte) : List Event :=
  convertTrace c ++ waitEvent wired t :: getTrace b0 b1

/-- The operations of a successful `READ`: four with the ready line wired, three without (R113). -/
def readOps (wired : Bool) (d : Dest) (axis period : Byte) (timeout : Word32) (b0 b1 : Byte) : List Instr :=
  [.enc axis period, .tmo period timeout] ++ (if wired then [.waitr false] else []) ++ [loadInstr d b0 b1]

/-- The events `BEGIN` emits before its read (R115). -/
def beginTrace (wired : Bool) : List Event :=
  [.dir .select .output, .dir .reset .output] ++ (if wired then [.dir .ready .input] else []) ++
    [.desel, .rstIdle, .busCfg]

/-- A state whose destination register holds a sample (R112). -/
def State.withSample (s : State) (d : Dest) (v : Half) : State :=
  match d with
  | .low => { s with low := some v }
  | .high => { s with high := some v }

/-- The host is idle and its next line is the call `c`. -/
def State.ReadyFor (s : State) (c : Call) (rest : List Line) : Prop :=
  s.port = none ∧ s.activity = none ∧ s.program = .call c :: rest

/-- The run of `s` ends a sequence, after some number of steps, in exactly the state `t`. -/
def RunsTo (s t : State) : Prop := ∃ n, Host.Core.run Sys2Proof.core n s = .next t

/-- `t` with the host's part of a sequence that has ended: what it returned, its trace, its operations. -/
def State.ended (t : State) (rest : List Line) (r : Ret) (trace : List Event) (issued : List Instr) : State :=
  { t with program := rest, activity := none, ret := some r, trace := trace, issued := issued }

/-- The environment supplies these outcomes, if the ready line is wired, and these bytes next (R15). -/
def State.Supplies (s : State) (waits : List WaitOutcome) (bytes : List Byte) (left : Draws) : Prop :=
  s.draws.bytes = bytes ++ left.bytes ∧ s.draws.count = left.count ∧
    s.draws.waits = (if s.cfg.readyWired then waits else []) ++ left.waits

end Sys2Proof.Machine
end

