-- ==== Sys2Proof/Certificates/Slice0/Obligations.lean ====
section
/-!
DEFINITION. Certificates/Slice0/Obligations.lean: the statements for the provers. Each docstring says which rule
of spec/ it formalises, and names the spec's own decisions (D<n>) and the model's log entries it rests on.
-/

open Sys2Proof Sys2Proof.Machine

/-! ### Reset, codes and the ROM -/

/-- R31 (its values are the spec's decision D9): after reset every register is as R31 says and the configuration
is kept; `AXIS_BASE` and `MOD2_NEG_ODD` of the reset instance are R30's. `AXIS_COUNT` and `READY_WIRED` of that
instance are the model's choice (log 2) and nothing is stated of them. -/
def Obligations.ResetRegisters : Prop :=
  (∀ c : Config,
    (State.afterReset c).cfg = c ∧ (State.afterReset c).st = .noError ∧ (State.afterReset c).cmd = none ∧
    (State.afterReset c).tmo = none ∧ (State.afterReset c).low = none ∧ (State.afterReset c).high = none ∧
    (State.afterReset c).res = none) ∧
  State.reset = State.afterReset State.reset.cfg ∧ State.reset.cfg.axisBase = 1 ∧
  State.reset.cfg.mod2NegOdd = 1

/-- R10 (D3): the numeric codes of the four statuses. -/
def Obligations.StatusCodes : Prop :=
  Status.code .noError = 0 ∧ Status.code .badAxis = 1 ∧ Status.code .badPeriod = 2 ∧
  Status.code .timeout = 3 ∧ ∀ c : BitVec 2, ∃ e : Status, e.code = c ∧ ∀ e' : Status, e'.code = c → e' = e

/-- R41: the eight words of `TROM`, the same in every instance and in every state, and no word past them. -/
def Obligations.RomContents : Prop :=
  trom 0 = some 501 ∧ trom 1 = some 1001 ∧ trom 2 = some 2001 ∧ trom 3 = some 4001 ∧ trom 4 = some 7501 ∧
  trom 5 = some 15001 ∧ trom 6 = some 35501 ∧ trom 7 = some 60001 ∧ ∀ i, 7 < i → trom i = none

/-- R20: a register read gives the payload as its type's number exactly when the valid bit is set, and the numbers 0 to
5 name `ST`, `CMD`, `TMO`, `LOW`, `HIGH` and `RES` in this order, no other number naming one. -/
def Obligations.RegisterReads : Prop :=
  (∀ s : State,
    s.readReg .st = some (s.st.code.toNat : Int) ∧
    (∀ v, s.cmd = some v → s.readReg .cmd = some (v.toNat : Int)) ∧
    (∀ v, s.tmo = some v → s.readReg .tmo = some (v.toNat : Int)) ∧
    (∀ v, s.low = some v → s.readReg .low = some v.toInt) ∧
    (∀ v, s.high = some v → s.readReg .high = some v.toInt) ∧
    (∀ v, s.res = some v → s.readReg .res = some v.toInt) ∧
    ∀ r, s.validBit r = false → s.readReg r = none) ∧
  RegName.number .st = 0 ∧ RegName.number .cmd = 1 ∧ RegName.number .tmo = 2 ∧ RegName.number .low = 3 ∧
  RegName.number .high = 4 ∧ RegName.number .res = 5 ∧ (∀ r : RegName, RegName.ofNumber r.number = some r) ∧
  ∀ i, (RegName.ofNumber i).isSome = true ↔ i ≤ 5

/-! ### Encodings -/

/-- Words written out from R64 to R66 and the vectors of spec/95_test_vectors.md, decoded as the table numbers
their bits. -/
def Obligations.WordsDecode : Prop :=
  decodeTableWord 56 0x10020300000000 = some (.enc 2 3) ∧
  decodeTableWord 56 0x200007000004D2 = some (.tmo 7 1234) ∧
  decodeTableWord 56 0x30010000000000 = some (.waitr true) ∧
  decodeTableWord 56 0x40123400000000 = some (.ldl 0x12 0x34) ∧
  decodeTableWord 56 0x50000700000000 = some (.ldh 0x00 0x07) ∧
  decodeTableWord 56 0x60000000000000 = some .fuse ∧
  decodeTableWord 8 0x32 = some (.cmdP256 2) ∧
  decodeTableWord 8 0x71 = some (.cmdP4096 1) ∧
  decodeTableWord 56 0x11020300000000 = none ∧ decodeTableWord 56 0x30020000000000 = none ∧
  decodeTableWord 8 0x81 = none

/-- R66 and R74 (the layout is D7): each row's mask and match, as the spec writes them, select exactly the words
that decode to its operation, with the operands at bits 47:40, 39:32, 31:0 and 40, and a word that no row selects
is reserved. -/
def Obligations.MaskAndMatchSelect : Prop :=
  ∀ w : Opw,
    (w &&& 0xFF0000FFFFFFFF = 0x10000000000000 ↔
      decodeOpw w = .ok (.enc (w.extractLsb' 40 8) (w.extractLsb' 32 8))) ∧
    (w &&& 0xFFFF0000000000 = 0x20000000000000 ↔
      decodeOpw w = .ok (.tmo (w.extractLsb' 32 8) (w.extractLsb' 0 32))) ∧
    (w &&& 0xFFFEFFFFFFFFFF = 0x30000000000000 ↔ decodeOpw w = .ok (.waitr (w.getLsbD 40))) ∧
    (w &&& 0xFF0000FFFFFFFF = 0x40000000000000 ↔
      decodeOpw w = .ok (.ldl (w.extractLsb' 40 8) (w.extractLsb' 32 8))) ∧
    (w &&& 0xFF0000FFFFFFFF = 0x50000000000000 ↔
      decodeOpw w = .ok (.ldh (w.extractLsb' 40 8) (w.extractLsb' 32 8))) ∧
    (w &&& 0xFFFFFFFFFFFFFF = 0x60000000000000 ↔ decodeOpw w = .ok .fuse) ∧
    ((∃ e, decodeOpw w = .error e) ↔
      w &&& 0xFF0000FFFFFFFF ≠ 0x10000000000000 ∧ w &&& 0xFFFF0000000000 ≠ 0x20000000000000 ∧
      w &&& 0xFFFEFFFFFFFFFF ≠ 0x30000000000000 ∧ w &&& 0xFF0000FFFFFFFF ≠ 0x40000000000000 ∧
      w &&& 0xFF0000FFFFFFFF ≠ 0x50000000000000 ∧ w &&& 0xFFFFFFFFFFFFFF ≠ 0x60000000000000)

/-- R67 (D8): the reserved words are those of the rule, and a reserved word on the port is refused by name. The
fields an operation does not use are those of R64 and R65. -/
def Obligations.ReservedWordsRefused : Prop :=
  ∀ w : Opw,
    ((∃ e, decodeOpw w = .error e) ↔
      (opwOp w).toNat = 0 ∨ 7 ≤ (opwOp w).toNat ∨ opwZ w ≠ 0 ∨
      ((opwOp w = 1 ∨ opwOp w = 4 ∨ opwOp w = 5) ∧ opwT w ≠ 0) ∨
      (opwOp w = 2 ∧ opwA w ≠ 0) ∨
      (opwOp w = 3 ∧ (2 ≤ (opwA w).toNat ∨ opwB w ≠ 0 ∨ opwT w ≠ 0)) ∨
      (opwOp w = 6 ∧ (opwA w ≠ 0 ∨ opwB w ≠ 0 ∨ opwT w ≠ 0))) ∧
    ∀ s : State, s.port = some (.opw w) → (∃ e, decodeOpw w = .error e) → step s = .refused .reservedOp

/-- Decoding the word of an instruction gives it back, for every constructor and every operand value. -/
def Obligations.DecodeOfEncode : Prop :=
  ∀ i : Instr, decode (encode i) = .ok i

/-- Each word of either format has at most one meaning, and that meaning's word is the word itself: "one
operation with given operands has exactly one word" (R66). -/
def Obligations.EncodeOfDecode : Prop :=
  ∀ (p : PortWord) (i : Instr), decode p = .ok i → encode i = p

/-- R75: the verdict on a command byte. -/
def Obligations.CommandByteVerdict : Prop :=
  ∀ (n : Nat) (c : Byte), (n = 2 ∨ n = 3) →
    (∀ p a, classifyCommand n c = .legal p a ↔
      c.toNat = 16 * p + a ∧ p ≤ 7 ∧ 1 ≤ a ∧ a ≤ n) ∧
    (classifyCommand n c = .invalid ↔ ¬ ∃ p a, c.toNat = 16 * p + a ∧ p ≤ 7 ∧ 1 ≤ a ∧ a ≤ n)

/-- R72 and R73 (D20): lines of assembler text, the omitted timeout included. -/
def Obligations.AssemblerLines : Prop :=
  assembleLine "ENC   2, 3   ; axis, period".toList = some [.word 0x10020300000000] ∧
  assembleLine "LDH   0x00, 0x07".toList = some [.word 0x50000700000000] ∧
  assembleLine "READ L, 2, 3".toList = some [.call (.read .low 2 3 0)] ∧
  assembleLine "READHP 1, 70000".toList = some [.call (.readHp 1 70000)] ∧
  assembleLine "; a comment".toList = some [] ∧ assembleLine "ENC 2 3".toList = none

/-! ### The block operations -/

/-- R80 and R81: the status, the command byte and the frame of `ENC`, for every axis and period, and the fields
of its word. `CMD = none` on a failure is D14, the base of the axis is the parameter of D1. -/
def Obligations.EncEffect : Prop :=
  (∀ (s : State) (axis period : Byte), s.cfg.Legal →
    ((axis.toNat < s.cfg.axisBase ∨ s.cfg.axisBase + s.cfg.axisCount - 1 < axis.toNat) →
      exec (.enc axis period) s = .next { s with st := .badAxis, cmd := none }) ∧
    (s.cfg.axisBase ≤ axis.toNat ∧ axis.toNat ≤ s.cfg.axisBase + s.cfg.axisCount - 1 ∧ 7 < period.toNat →
      exec (.enc axis period) s = .next { s with st := .badPeriod, cmd := none }) ∧
    (s.cfg.axisBase ≤ axis.toNat ∧ axis.toNat ≤ s.cfg.axisBase + s.cfg.axisCount - 1 ∧ period.toNat ≤ 7 →
      exec (.enc axis period) s = .next { s with
        st := .noError
        cmd := some (BitVec.ofNat 8 (16 * period.toNat + (axis.toNat - s.cfg.axisBase + 1))) })) ∧
  ∀ axis period : Byte, ∃ w, encode (.enc axis period) = .opw w ∧ opwOp w = 1 ∧ opwZ w = 0 ∧
    opwA w = axis ∧ opwB w = period ∧ opwT w = 0

/-- R83: a successful `ENC` determines its operands by the byte it makes. -/
def Obligations.CommandByteDeterminesOperands : Prop :=
  ∀ (s t t' : State) (axis period axis' period' : Byte) (c : Byte),
    exec (.enc axis period) s = .next t → t.st = .noError → t.cmd = some c →
    (c.extractLsb' 4 4).toNat = period.toNat ∧
    (c.extractLsb' 0 4).toNat = axis.toNat - s.cfg.axisBase + 1 ∧
    (exec (.enc axis' period') s = .next t' → t'.st = .noError → t'.cmd = some c →
      axis' = axis ∧ period' = period)

/-- R62 and R63: the command bytes `ENC` can produce are exactly those with period field 0 to 7 and axis field 1
to `AXIS_COUNT`. -/
def Obligations.ProducedCommandBytes : Prop :=
  ∀ (s : State) (c : Byte), s.cfg.Legal →
    ((∃ axis period t, exec (.enc axis period) s = .next t ∧ t.cmd = some c) ↔
      ∃ p a, c.toNat = 16 * p + a ∧ p ≤ 7 ∧ 1 ≤ a ∧ a ≤ s.cfg.axisCount)

/-- R90 and R91: the effective timeout, the status and the frame of `TMO`, for every period and timeout, and the
fields of its word. A non-zero timeout with `period > 7` is stored (D13). -/
def Obligations.TmoEffect : Prop :=
  (∀ (s : State) (period : Byte) (timeout : Word32), s.cfg.Legal →
    (timeout ≠ 0 → exec (.tmo period timeout) s = .next { s with st := .noError, tmo := some timeout }) ∧
    (∀ w, timeout = 0 →
      [501, 1001, 2001, 4001, 7501, 15001, 35501, 60001][period.toNat]? = some w →
      exec (.tmo period timeout) s = .next { s with st := .noError, tmo := some (BitVec.ofNat 32 w) }) ∧
    (timeout = 0 → 7 < period.toNat →
      exec (.tmo period timeout) s = .next { s with st := .badPeriod, tmo := none })) ∧
  ∀ (period : Byte) (timeout : Word32), ∃ w, encode (.tmo period timeout) = .opw w ∧ opwOp w = 2 ∧
    opwZ w = 0 ∧ opwA w = 0 ∧ opwB w = period ∧ opwT w = timeout

/-- R92 (D30): the record of the wait's outcome, its frame, and the fields of its word. -/
def Obligations.WaitrEffect : Prop :=
  (∀ s : State, s.cfg.Legal →
    exec (.waitr true) s = .next { s with st := .timeout } ∧
    exec (.waitr false) s = .next { s with st := .noError }) ∧
  ∀ x : Bool, ∃ w, encode (.waitr x) = .opw w ∧ opwOp w = 3 ∧ opwZ w = 0 ∧
    (opwA w).toNat = (if x then 1 else 0) ∧ opwB w = 0 ∧ opwT w = 0

/-- R44, R100 and R101: the two loads, big-endian, read as a signed 16-bit number, their frames (that `ST` is left alone
is D25, that the other registers are is D29), and the fields of their words (the layout and the select codes are
D7). -/
def Obligations.LoadEffect : Prop :=
  (∀ (s : State) (b0 b1 : Byte), s.cfg.Legal → ∃ v : Half,
    v.toNat = 256 * b0.toNat + b1.toNat ∧
    v.toInt = (if b0.toNat < 128 then (256 * b0.toNat + b1.toNat : Int)
      else 256 * b0.toNat + b1.toNat - 65536) ∧
    exec (.ldl b0 b1) s = .next { s with low := some v } ∧
    exec (.ldh b0 b1) s = .next { s with high := some v }) ∧
  ∀ b0 b1 : Byte,
    (∃ w, encode (.ldl b0 b1) = .opw w ∧ opwOp w = 4 ∧ opwZ w = 0 ∧ opwA w = b0 ∧ opwB w = b1 ∧
      opwT w = 0) ∧
    ∃ w, encode (.ldh b0 b1) = .opw w ∧ opwOp w = 5 ∧ opwZ w = 0 ∧ opwA w = b0 ∧ opwB w = b1 ∧ opwT w = 0

/-- R102 and R104: `FUSE` on two valid samples: the signed result, the consumption of both operands (D12), the
frame, and the word. `MOD2_NEG_ODD` is the parameter of D2. -/
def Obligations.FuseEffect : Prop :=
  (∀ (s : State) (l h : Half), s.cfg.Legal → s.low = some l → s.high = some h → ∃ v : Word32,
    exec .fuse s = .next { s with res := some v, low := none, high := none } ∧
    ((l.toInt ≤ -16000 ∨ 16000 ≤ l.toInt) →
      (h.getLsbD 0 = false → v.toInt = l.toInt * 2) ∧
      (h.getLsbD 0 = true → 0 < h.toInt → v.toInt = l.toInt * 2 + 1) ∧
      (h.getLsbD 0 = true → h.toInt < 0 → v.toInt = l.toInt * 2 + s.cfg.mod2NegOdd)) ∧
    (-16000 < l.toInt ∧ l.toInt < 16000 → v.toInt = h.toInt)) ∧
  encode .fuse = .opw 0x60000000000000

/-- R106 (D11) in the part a model has: `FUSE` faults exactly when a sample is invalid. -/
def Obligations.FuseFaults : Prop :=
  ∀ s : State, s.cfg.Legal →
    (exec .fuse s = .fault .fuseOperandInvalid ↔ s.low = none ∨ s.high = none)

/-- R104 (D2): with the hardware's `MOD2_NEG_ODD = +1`, `mod2` is bit 0 of the pattern and the floor remainder;
with -1 it is the remainder of a division that truncates toward zero; always it is 0 or of size 1 by parity. -/
def Obligations.Mod2Readings : Prop :=
  ∀ (c : Config) (h : Half),
    (h.getLsbD 0 = false → mod2 c h.toInt = 0) ∧
    (h.getLsbD 0 = true → 0 < h.toInt → mod2 c h.toInt = 1) ∧
    (h.getLsbD 0 = true → h.toInt < 0 → mod2 c h.toInt = c.mod2NegOdd) ∧
    (c.mod2NegOdd = 1 → mod2 c h.toInt = (if h.getLsbD 0 then 1 else 0) ∧
      mod2 c h.toInt = h.toInt - 2 * (h.toInt.fdiv 2)) ∧
    (c.mod2NegOdd = -1 → mod2 c h.toInt = h.toInt.tmod 2)

/-- R103: the ranges of the fused value on both paths, under each setting, and no wrap on storing it. -/
def Obligations.FuseRange : Prop :=
  ∀ (c : Config) (l h : Half), c.Legal →
    (-65536 ≤ l.toInt * 2 ∧ l.toInt * 2 ≤ 65534) ∧
    (mod2 c h.toInt = -1 ∨ mod2 c h.toInt = 0 ∨ mod2 c h.toInt = 1) ∧
    ((l.toInt ≤ -16000 ∨ 16000 ≤ l.toInt) →
      -65537 ≤ fuseValue c l.toInt h.toInt ∧ fuseValue c l.toInt h.toInt ≤ 65535) ∧
    (c.mod2NegOdd = 1 → -65536 ≤ fuseValue c l.toInt h.toInt) ∧
    (¬ (l.toInt ≤ -16000 ∨ 16000 ≤ l.toInt) →
      -32768 ≤ fuseValue c l.toInt h.toInt ∧ fuseValue c l.toInt h.toInt ≤ 32767) ∧
    (BitVec.ofInt 32 (fuseValue c l.toInt h.toInt)).toInt = fuseValue c l.toInt h.toInt

/-- R105: the two thresholds, -16000 and 16000, both inclusive, and the band they bound as 16-bit patterns: 0x3E80 to
0xC180 take the overflow path, 0x3E7F and 0xC181 do not. -/
def Obligations.ThresholdPatterns : Prop :=
  (∀ low : Int, lowSaturated low ↔ low ≤ -16000 ∨ 16000 ≤ low) ∧
  (0x3E80 : Half).toInt = 16000 ∧ (0x3E7F : Half).toInt = 15999 ∧ (0xC180 : Half).toInt = -16000 ∧
  (0xC181 : Half).toInt = -15999 ∧
  ∀ l : Half, lowSaturated l.toInt ↔ 0x3E80 ≤ l.toNat ∧ l.toNat ≤ 0xC180

/-- R27 (D29): an operation that completes changes no register but those marked `w` in its row and nothing
outside the registers, and what it does depends on no register but those marked `r`. -/
def Obligations.AccessMatrix : Prop :=
  (∀ (i : Instr) (s t : State), exec i s = .next t →
    SameHost s t ∧ ∀ r, writes i r = false → State.Agree r s t) ∧
  ∀ (i : Instr) (s s' t : State), SameHost s s' → (∀ r, reads i r = true → State.Agree r s s') →
    exec i s = .next t → ∃ t', exec i s' = .next t' ∧ ∀ r, writes i r = true → State.Agree r t t'

/-- R84 in the part a model has ("A model gives these rows no step"): each command-byte row stops by name,
whatever its operand and the state. -/
def Obligations.SensorCommandsStop : Prop :=
  ∀ (s : State) (a : Nibble),
    exec (.cmdP32 a) s = .refused .sensorCommand ∧ exec (.cmdP64 a) s = .refused .sensorCommand ∧
    exec (.cmdP128 a) s = .refused .sensorCommand ∧ exec (.cmdP256 a) s = .refused .sensorCommand ∧
    exec (.cmdP512 a) s = .refused .sensorCommand ∧ exec (.cmdP1024 a) s = .refused .sensorCommand ∧
    exec (.cmdP2048 a) s = .refused .sensorCommand ∧ exec (.cmdP4096 a) s = .refused .sensorCommand

/-- R142 (D8, D11, D19): the outcomes that are no status code. -/
def Obligations.OutcomesThatAreNoStatus : Prop :=
  ∀ s : State,
    (s.cfg.Legal → s.low = none ∨ s.high = none → exec .fuse s = .fault .fuseOperandInvalid) ∧
    (∀ w e, s.port = some (.opw w) → decodeOpw w = .error e → step s = .refused .reservedOp) ∧
    (¬ s.cfg.Legal →
      (∀ i, rowOf i ≠ none → exec i s = .refused .badConfig) ∧
      (s.port = none → step s = .refused .badConfig) ∧
      ∀ lines, launch s.cfg [lines] = .refused .badConfig)

/-! ### The step -/

/-- A step runs the instruction on the port: it takes the word, decodes it and runs it, and adds nothing to it
(R49, R51, R74); `withFetchWord` puts a word there, and so does an idle host whose next line is a bare operation word,
which drops the line and changes nothing else (the port and the host's place in State are the model's, log 4). -/
def Obligations.StepRunsDecoded : Prop :=
  (∀ (s : State) (p : PortWord) (i : Instr), s.port = some p → decode p = .ok i →
    step s = exec i { s with port := none }) ∧
  (∀ (s : State) (nbits w : Nat) (i : Instr), decodeTableWord nbits w = some i →
    step (s.withFetchWord nbits w) = exec i { s with port := none }) ∧
  ∀ (s : State) (w : Opw) (rest : List Line), s.cfg.Legal → s.port = none → s.activity = none →
    s.program = .word w :: rest → step s = .next { s with port := some (.opw w), program := rest }

/-- With the port empty, no sequence in progress and no line left, the host issues nothing and nothing changes
(R28, R150; the idle step is the model's form of it, log 4). -/
def Obligations.IdleHost : Prop :=
  ∀ s : State, s.cfg.Legal → s.port = none → s.activity = none → s.program = [] → step s = .next s

/-- R150 (D9): reset gives R31's values and keeps the configuration; besides a reset, only an operation taken
from the port changes a register, whatever the host does (the reset line's pulse among it, R151). -/
def Obligations.OnlyOperationsChangeRegisters : Prop :=
  (∀ (s t : State), s.port = none → step s = .next t → SameBlock s t) ∧
  ∀ c : Config, (State.afterReset c).cfg = c ∧ (State.afterReset c).st = .noError ∧
    ∀ r, r ≠ .st → (State.afterReset c).validBit r = false

/-- R30: no step writes a configuration field. -/
def Obligations.ConfigurationIsFixed : Prop :=
  ∀ s t : State, step s = .next t → t.cfg = s.cfg

/-- R49, R141 (D22) and R150: under a legal configuration a launch of one host program starts it from the reset state,
and a launch with any other number of hosts is refused. That the program's lines stand in State is the model's (log 4).
That `launch` does not look at them, so that a program with a reserved word is launched and refused only at the step
that takes the word, is the model's choice too (DESIGN CHOICE, log 10, unsafe); R67 and R142 say that such a program
gets no meaning. -/
def Obligations.LaunchHasOneHost : Prop :=
  ∀ c : Config, c.Legal →
    (∀ lines, launch c [lines] = .next { State.afterReset c with program := lines }) ∧
    ∀ hosts, hosts.length ≠ 1 → launch c hosts = .refused .notOneHost

/-! ### Invariants -/

/-- The invariants below hold right after reset. -/
def Obligations.InvariantsAtReset : Prop :=
  BlockInv State.reset ∧ HostInv State.reset ∧ WaitInv State.reset ∧ RetInv State.reset

/-- Every step keeps the block's promises about its registers: the configuration legal, a valid `CMD` in the
legal set (R62, R63), a valid `TMO` not 0 (R23), a valid `RES` in -65537 to 65535 (R26). -/
def Obligations.StepKeepsBlockInv : Prop :=
  ∀ s t : State, BlockInv s → step s = .next t → BlockInv t

/-- A host that issues only the five driver calls never meets a fault or a refusal, and stays so: `FUSE` cannot
fault in `READHP` (R114 d), `CMD` is valid when it is sent (R158), `TMO` when it is waited on. -/
def Obligations.DriverCallsNeverStop : Prop :=
  (∀ s : State, HostInv s → ∃ t, step s = .next t ∧ HostInv t) ∧
  ∀ (c : Config) (calls : List Call), c.Legal →
    ∃ s, launch c [calls.map Line.call] = .next s ∧ HostInv s

/-- Inside the five calls the host polls, and issues `WAITR`, and sets up the ready line, only with the ready line wired,
and uses the fixed delay only with it not wired; every step keeps this (R92 b, R93, R94, R115). `State.trace` and
`State.issued` record what a call does and nothing of a bare operation word (DESIGN CHOICE, log 14), so this says
nothing of a bare `WAITR` of a program. -/
def Obligations.StepKeepsWaitInv : Prop :=
  ∀ s t : State, WaitInv s → step s = .next t → WaitInv t

/-- No sequence returns a sample beside an error: every step keeps it (R116). -/
def Obligations.StepKeepsRetInv : Prop :=
  ∀ s t : State, RetInv s → step s = .next t → RetInv t

/-- R158: a step that transmits a byte transmits the payload of `CMD`, which is valid, with no operation
pending. -/
def Obligations.TransmitsOnlyValidCommand : Prop :=
  ∀ (s t : State) (c : Byte), step s = .next t → t.trace = s.trace ++ [.tx c] →
    s.port = none ∧ s.cv = true ∧ s.cmd = some c ∧ t.cmd = some c

/-- R33: a sequence's run, what it emits, issues, draws and returns, is the same whatever the registers held
before it. -/
def Obligations.StaleRegistersAreInvisible : Prop :=
  ∀ (s s' t : State) (c : Call) (n : Nat), SameHost s s' → s.ReadyFor c [] →
    Host.Core.run Sys2Proof.core n s = .next t →
    ∃ t', Host.Core.run Sys2Proof.core n s' = .next t' ∧ SameHost t t'

/-! ### The wait of R93 -/

/-- R93: the comparison is strict and modular (D16); the loop ends at the first pass that sees the line ready or
the time exceeded, the line tested first (D15). -/
def Obligations.PolledWaitIsStrict : Prop :=
  (∀ (start elapsed : Clock) (t : Word32),
    waitExpired start (start + elapsed) t = true ↔ t.toNat < elapsed.toNat) ∧
  ∀ (start : Clock) (t : Word32) (passes : List (Bool × Clock)) (w : WaitOutcome),
    pollLoop start t passes = some w ↔
      ∃ before last later, passes = before ++ last :: later ∧
        (∀ p ∈ before, p.1 = false ∧ waitExpired start p.2 t = false) ∧
        ((w = .ready ∧ last.1 = true) ∨
          (w = .expired ∧ last.1 = false ∧ waitExpired start last.2 t = true))

/-! ### The sequences

Each says what state the run of a call ends in, the whole of it, from every state in which the host is idle with
that call as its next line. The number of steps is the model's (one a line of the pseudocode, log 4). They speak of
the block's registers and the host's own acts, whose rules "hold from the first operation" (R152), and of no sample's
meaning: they hold with the launch premise of R152 and without it (log 23). The last two statements carry it. -/

/-- R111 and R82: `CONVERT`, for every axis and period: a failed `ENC` ends it with an empty trace; a successful
one sends the byte in its frame. -/
def Obligations.ConvertRuns : Prop :=
  ∀ (s : State) (axis period : Byte) (rest : List Line), s.cfg.Legal →
    s.ReadyFor (.convert axis period) rest →
    (¬ axisValid s.cfg axis →
      RunsTo s (({ s with st := .badAxis, cmd := none } : State).ended rest
        { status := some .badAxis, value := none } [] [.enc axis period])) ∧
    (axisValid s.cfg axis → 7 < period.toNat →
      RunsTo s (({ s with st := .badPeriod, cmd := none } : State).ended rest
        { status := some .badPeriod, value := none } [] [.enc axis period])) ∧
    (axisValid s.cfg axis → period.toNat ≤ 7 → ∀ c : Byte,
      c.toNat = 16 * period.toNat + (axis.toNat - s.cfg.axisBase + 1) →
      RunsTo s (({ s with st := .noError, cmd := some c } : State).ended rest
        { status := some .noError, value := none } [.sel, .rstPulse, .tx c, .desel] [.enc axis period]))

/-- R112: `GETRESULT d` with any two bytes from the environment. -/
def Obligations.GetResultRuns : Prop :=
  ∀ (s : State) (d : Dest) (rest : List Line) (b0 b1 : Byte) (left : Draws), s.cfg.Legal →
    s.ReadyFor (.getResult d) rest → s.Supplies [] [b0, b1] left →
    RunsTo s ((({ s with draws := left } : State).withSample d (sampleOf b0 b1)).ended rest
      { status := none, value := some (sampleOf b0 b1).toInt } [.sel, .rx b0, .rx b1, .desel]
      [loadInstr d b0 b1])

/-- R113, the success paths: the ready line wired and seen in time, or not wired and the fixed delay. That a
program line may name `HIGH` is the model's choice (log 24). -/
def Obligations.ReadSucceeds : Prop :=
  ∀ (s : State) (d : Dest) (axis period : Byte) (timeout : Word32) (rest : List Line) (b0 b1 : Byte)
    (left : Draws) (t : Word32), s.cfg.Legal → axisValid s.cfg axis → period.toNat ≤ 7 →
    s.ReadyFor (.read d axis period timeout) rest → s.Supplies [.ready] [b0, b1] left →
    effectiveTimeout period timeout = some t →
    RunsTo s ((({ s with
        st := .noError
        cmd := some (commandByte s.cfg axis period)
        tmo := some t
        draws := left } : State).withSample d (sampleOf b0 b1)).ended rest
      { status := some .noError, value := some (sampleOf b0 b1).toInt }
      (readTrace s.cfg.readyWired (commandByte s.cfg axis period) t b0 b1)
      (readOps s.cfg.readyWired d axis period timeout b0 b1))

/-- R113, the early returns: a refused axis or period (one operation, nothing on the bus or the lines), and an
expired wait (three operations, nothing read). `LOW`, `HIGH` and, on a refusal, `TMO` keep their values.
That a program line may name `HIGH` is the model's choice (log 24). -/
def Obligations.ReadReturnsErrors : Prop :=
  ∀ (s : State) (d : Dest) (axis period : Byte) (timeout : Word32) (rest : List Line), s.cfg.Legal →
    s.ReadyFor (.read d axis period timeout) rest →
    (¬ axisValid s.cfg axis →
      RunsTo s (({ s with st := .badAxis, cmd := none } : State).ended rest
        { status := some .badAxis, value := none } [] [.enc axis period])) ∧
    (axisValid s.cfg axis → 7 < period.toNat →
      RunsTo s (({ s with st := .badPeriod, cmd := none } : State).ended rest
        { status := some .badPeriod, value := none } [] [.enc axis period])) ∧
    (∀ (left : Draws) (t : Word32), axisValid s.cfg axis → period.toNat ≤ 7 → s.cfg.readyWired = true →
      s.Supplies [.expired] [] left → effectiveTimeout period timeout = some t →
      RunsTo s (({ s with
          st := .timeout
          cmd := some (commandByte s.cfg axis period)
          tmo := some t
          draws := left } : State).ended rest
        { status := some .timeout, value := none }
        (convertTrace (commandByte s.cfg axis period) ++ [.poll t])
        [.enc axis period, .tmo period timeout, .waitr true]))

/-- R114, the success path: two sub-reads at period codes 6 and 7 with the same timeout, then `FUSE`; the result
is R102's fused value, exact. -/
def Obligations.ReadHpSucceeds : Prop :=
  ∀ (s : State) (axis : Byte) (timeout : Word32) (rest : List Line) (l0 l1 h0 h1 : Byte) (left : Draws)
    (t6 t7 : Word32), s.cfg.Legal → axisValid s.cfg axis →
    s.ReadyFor (.readHp axis timeout) rest → s.Supplies [.ready, .ready] [l0, l1, h0, h1] left →
    t6 = (if timeout = 0 then 35501 else timeout) → t7 = (if timeout = 0 then 60001 else timeout) →
    ∃ v : Word32, v.toInt = fuseValue s.cfg (sampleOf l0 l1).toInt (sampleOf h0 h1).toInt ∧
      RunsTo s (({ s with
          st := .noError
          cmd := some (commandByte s.cfg axis 7)
          tmo := some t7
          low := none
          high := none
          res := some v
          draws := left } : State).ended rest
        { status := some .noError, value := some v.toInt }
        (readTrace s.cfg.readyWired (commandByte s.cfg axis 6) t6 l0 l1 ++
          readTrace s.cfg.readyWired (commandByte s.cfg axis 7) t7 h0 h1)
        (readOps s.cfg.readyWired .low axis 6 timeout l0 l1 ++
          readOps s.cfg.readyWired .high axis 7 timeout h0 h1 ++ [.fuse]))

/-- R114, the early returns: an error of the first sub-read ends the call before the second; after an expired
second wait `LOW` holds the fresh low sample and `FUSE` is not issued. -/
def Obligations.ReadHpReturnsErrors : Prop :=
  ∀ (s : State) (axis : Byte) (timeout : Word32) (rest : List Line) (t6 t7 : Word32), s.cfg.Legal →
    s.ReadyFor (.readHp axis timeout) rest →
    t6 = (if timeout = 0 then 35501 else timeout) → t7 = (if timeout = 0 then 60001 else timeout) →
    (¬ axisValid s.cfg axis →
      RunsTo s (({ s with st := .badAxis, cmd := none } : State).ended rest
        { status := some .badAxis, value := none } [] [.enc axis 6])) ∧
    (∀ left : Draws, axisValid s.cfg axis → s.cfg.readyWired = true → s.Supplies [.expired] [] left →
      RunsTo s (({ s with
          st := .timeout
          cmd := some (commandByte s.cfg axis 6)
          tmo := some t6
          draws := left } : State).ended rest
        { status := some .timeout, value := none }
        (convertTrace (commandByte s.cfg axis 6) ++ [.poll t6])
        [.enc axis 6, .tmo 6 timeout, .waitr true])) ∧
    (∀ (l0 l1 : Byte) (left : Draws), axisValid s.cfg axis → s.cfg.readyWired = true →
      s.Supplies [.ready, .expired] [l0, l1] left →
      RunsTo s (({ s with
          st := .timeout
          cmd := some (commandByte s.cfg axis 7)
          tmo := some t7
          low := some (sampleOf l0 l1)
          draws := left } : State).ended rest
        { status := some .timeout, value := none }
        (readTrace true (commandByte s.cfg axis 6) t6 l0 l1 ++
          convertTrace (commandByte s.cfg axis 7) ++ [.poll t7])
        (readOps true .low axis 6 timeout l0 l1 ++ [.enc axis 7, .tmo 7 timeout, .waitr true])))

/-- R115 (D17, D32): `BEGIN`, whose command byte is 0x01 and whose wait is on 501 microseconds; it fails only by
an expired wait with the ready line wired, and discards the sample. -/
def Obligations.BeginRuns : Prop :=
  ∀ (s : State) (rest : List Line), s.cfg.Legal → s.ReadyFor .begin rest →
    (∀ (b0 b1 : Byte) (left : Draws), s.Supplies [.ready] [b0, b1] left →
      RunsTo s (({ s with
          st := .noError
          cmd := some 0x01
          tmo := some 501
          low := some (sampleOf b0 b1)
          draws := left } : State).ended rest
        { status := some .noError, value := none }
        (beginTrace s.cfg.readyWired ++ readTrace s.cfg.readyWired 0x01 501 b0 b1)
        (readOps s.cfg.readyWired .low (BitVec.ofNat 8 s.cfg.axisBase) 0 0 b0 b1))) ∧
    (∀ left : Draws, s.cfg.readyWired = true → s.Supplies [.expired] [] left →
      RunsTo s (({ s with
          st := .timeout
          cmd := some 0x01
          tmo := some 501
          draws := left } : State).ended rest
        { status := some .timeout, value := none }
        (beginTrace true ++ convertTrace 0x01 ++ [.poll 501])
        [.enc (BitVec.ofNat 8 s.cfg.axisBase) 0, .tmo 0 0, .waitr true]))

/-- R152 and R115: a launched program whose first line is `BEGIN` comes to the launch premise when the ready line is not
wired, whatever the environment gives, and when it is wired and seen in time; an expired wait ends `BEGIN` with
`Timeout`, and the premise does not hold. The lines after `BEGIN` are still to run. That the environment's values are
put beside the launch is the model's (log 5). -/
def Obligations.BeginBoots : Prop :=
  ∀ (c : Config) (lines : List Line) (l : State) (draws : Draws), c.Legal →
    launch c [.call .begin :: lines] = .next l →
    (c.readyWired = false ∨ draws.waits.head? = some .ready →
      ∃ b : State, RunsTo { l with draws := draws } b ∧ BeginSucceeded b ∧ b.program = lines ∧ b.cfg = c ∧
        b.st = .noError ∧ b.cmd = some 0x01 ∧ b.tmo = some 501 ∧ b.lv = true ∧ b.high = none ∧ b.res = none) ∧
    (c.readyWired = true → draws.waits.head? = some .expired →
      ∃ b : State, RunsTo { l with draws := draws } b ∧ b.port = none ∧ b.activity = none ∧ b.program = lines ∧
        b.ret = some { status := some .timeout, value := none } ∧ ¬ BeginSucceeded b)

/-- R152 with R111 to R116: after `BEGIN` returned `NoError`, every later call ends, whatever the environment does, with
a status and a value its rule allows; the host is then idle with the lines after it. A line `READ H` is one by log 24. -/
def Obligations.SequencesAfterBegin : Prop :=
  ∀ (s : State) (call : Call) (rest : List Line), s.cfg.Legal → AfterBegin s → s.ReadyFor call rest →
    ∃ (t : State) (r : Ret), RunsTo s t ∧ t.cfg = s.cfg ∧ t.port = none ∧ t.activity = none ∧
      t.program = rest ∧ t.ret = some r ∧ CallOutcome s.cfg call r
end

