-- ==== Sys2Proof/Laws/Decode.lean ====
section
/-!
SUPPORT. Laws/Decode.lean: the fields of a packed operation word, a word as the packing of its fields, and the
masks of R66 as conditions on the fields.
-/
namespace Sys2Proof.Laws

/-- An operation word is its five fields (R64). -/
theorem opw_ext {x y : Opw} (hop : opwOp x = opwOp y) (hz : opwZ x = opwZ y) (ha : opwA x = opwA y)
    (hb : opwB x = opwB y) (ht : opwT x = opwT y) : x = y := by
  have bit {n k : Nat} (h : x.extractLsb' k n = y.extractLsb' k n) (i : Nat) (hi : i < n) :
      x.getLsbD (k + i) = y.getLsbD (k + i) := by
    have := congrArg (fun v => v.getLsbD i) h
    simpa [hi] using this
  apply BitVec.eq_of_getLsbD_eq
  intro i hi
  by_cases h1 : i < 32
  · simpa using bit ht i h1
  by_cases h2 : i < 40
  · simpa [show 32 + (i - 32) = i by omega] using bit hb (i - 32) (by omega)
  by_cases h3 : i < 48
  · simpa [show 40 + (i - 40) = i by omega] using bit ha (i - 40) (by omega)
  by_cases h4 : i < 52
  · simpa [show 48 + (i - 48) = i by omega] using bit hz (i - 48) (by omega)
  · simpa [show 52 + (i - 52) = i by omega] using bit hop (i - 52) (by omega)

section Fields
variable (op z : Nibble) (a b : Byte) (t : Word32)

@[simp] theorem opwOp_packOpw : opwOp (packOpw op z a b t) = op := by
  apply BitVec.eq_of_getLsbD_eq
  intro i hi
  simp [opwOp, packOpw, hi, show 52 + i < 56 by omega, show 52 + i - 48 = i + 4 by omega,
    show 52 + i - 40 = i + 12 by omega, show 52 + i - 32 = i + 20 by omega,
    BitVec.getLsbD_of_ge t (52 + i) (by omega)]

@[simp] theorem opwZ_packOpw : opwZ (packOpw op z a b t) = z := by
  apply BitVec.eq_of_getLsbD_eq
  intro i hi
  simp [opwZ, packOpw, hi, show 48 + i < 52 by omega, show 48 + i < 56 by omega,
    show 48 + i - 40 = i + 8 by omega, show 48 + i - 32 = i + 16 by omega,
    BitVec.getLsbD_of_ge t (48 + i) (by omega)]

@[simp] theorem opwA_packOpw : opwA (packOpw op z a b t) = a := by
  apply BitVec.eq_of_getLsbD_eq
  intro i hi
  simp [opwA, packOpw, hi, show 40 + i < 48 by omega, show 40 + i < 52 by omega,
    show 40 + i < 56 by omega, show 40 + i - 32 = i + 8 by omega,
    BitVec.getLsbD_of_ge t (40 + i) (by omega)]

@[simp] theorem opwB_packOpw : opwB (packOpw op z a b t) = b := by
  apply BitVec.eq_of_getLsbD_eq
  intro i hi
  simp [opwB, packOpw, hi, show 32 + i < 40 by omega, show 32 + i < 48 by omega,
    show 32 + i < 52 by omega, show 32 + i < 56 by omega]

@[simp] theorem opwT_packOpw : opwT (packOpw op z a b t) = t := by
  apply BitVec.eq_of_getLsbD_eq
  intro i hi
  simp [opwT, packOpw, hi, show i < 40 by omega, show i < 48 by omega, show i < 52 by omega,
    show i < 56 by omega]

end Fields

/-- Bit 40 is bit 0 of the field `a` (R71). -/
theorem opwX_eq (w : Opw) : opwX w = (opwA w).getLsbD 0 := by
  simp [opwX, opwA]

/-- A word is the packing of its fields (R64). -/
theorem packOpw_fields (w : Opw) : packOpw (opwOp w) (opwZ w) (opwA w) (opwB w) (opwT w) = w :=
  opw_ext (by simp) (by simp) (by simp) (by simp) (by simp)

/-- A masked comparison of words is one of their fields. -/
theorem selects_iff (r : OpwRow) (w : Opw) : r.Selects w ↔
    opwOp w &&& opwOp r.mask = opwOp r.val ∧ opwZ w &&& opwZ r.mask = opwZ r.val ∧
      opwA w &&& opwA r.mask = opwA r.val ∧ opwB w &&& opwB r.mask = opwB r.val ∧
      opwT w &&& opwT r.mask = opwT r.val := by
  have hop : opwOp (w &&& r.mask) = opwOp w &&& opwOp r.mask := BitVec.extractLsb'_and
  have hz : opwZ (w &&& r.mask) = opwZ w &&& opwZ r.mask := BitVec.extractLsb'_and
  have ha : opwA (w &&& r.mask) = opwA w &&& opwA r.mask := BitVec.extractLsb'_and
  have hb : opwB (w &&& r.mask) = opwB w &&& opwB r.mask := BitVec.extractLsb'_and
  have ht : opwT (w &&& r.mask) = opwT w &&& opwT r.mask := BitVec.extractLsb'_and
  rw [← hop, ← hz, ← ha, ← hb, ← ht]
  exact ⟨fun h => by simp [h], fun ⟨h1, h2, h3, h4, h5⟩ => opw_ext h1 h2 h3 h4 h5⟩

/-- A mask of whole fields but `a` and `b`: the row fixes `op`, `z` and `t` (R66). -/
theorem selects_byteOperands (op : Nibble) (w : Opw) :
    OpwRow.Selects { mask := 0xFF0000FFFFFFFF, val := packOpw op 0 0 0 0 } w ↔
      opwOp w = op ∧ opwZ w = 0 ∧ opwT w = 0 := by
  rw [selects_iff]
  simp only [show opwOp (0xFF0000FFFFFFFF : Opw) = BitVec.allOnes 4 by decide,
    show opwZ (0xFF0000FFFFFFFF : Opw) = BitVec.allOnes 4 by decide,
    show opwA (0xFF0000FFFFFFFF : Opw) = 0 by decide,
    show opwB (0xFF0000FFFFFFFF : Opw) = 0 by decide,
    show opwT (0xFF0000FFFFFFFF : Opw) = BitVec.allOnes 32 by decide,
    BitVec.and_allOnes]
  simp

theorem encRow_selects (w : Opw) : encRow.Selects w ↔ opwOp w = 1 ∧ opwZ w = 0 ∧ opwT w = 0 :=
  selects_byteOperands 1 w

theorem ldlRow_selects (w : Opw) : ldlRow.Selects w ↔ opwOp w = 4 ∧ opwZ w = 0 ∧ opwT w = 0 :=
  selects_byteOperands 4 w

theorem ldhRow_selects (w : Opw) : ldhRow.Selects w ↔ opwOp w = 5 ∧ opwZ w = 0 ∧ opwT w = 0 :=
  selects_byteOperands 5 w

theorem tmoRow_selects (w : Opw) : tmoRow.Selects w ↔ opwOp w = 2 ∧ opwZ w = 0 ∧ opwA w = 0 := by
  rw [selects_iff]
  simp only [tmoRow, show opwOp (0xFFFF0000000000 : Opw) = BitVec.allOnes 4 by decide,
    show opwZ (0xFFFF0000000000 : Opw) = BitVec.allOnes 4 by decide,
    show opwA (0xFFFF0000000000 : Opw) = BitVec.allOnes 8 by decide,
    show opwB (0xFFFF0000000000 : Opw) = 0 by decide,
    show opwT (0xFFFF0000000000 : Opw) = 0 by decide,
    show opwOp (0x20000000000000 : Opw) = 2 by decide, show opwZ (0x20000000000000 : Opw) = 0 by decide,
    show opwA (0x20000000000000 : Opw) = 0 by decide, show opwB (0x20000000000000 : Opw) = 0 by decide,
    show opwT (0x20000000000000 : Opw) = 0 by decide,
    BitVec.and_allOnes]
  simp

theorem fuseRow_selects (w : Opw) :
    fuseRow.Selects w ↔ opwOp w = 6 ∧ opwZ w = 0 ∧ opwA w = 0 ∧ opwB w = 0 ∧ opwT w = 0 := by
  rw [selects_iff]
  simp only [fuseRow, show opwOp (0xFFFFFFFFFFFFFF : Opw) = BitVec.allOnes 4 by decide,
    show opwZ (0xFFFFFFFFFFFFFF : Opw) = BitVec.allOnes 4 by decide,
    show opwA (0xFFFFFFFFFFFFFF : Opw) = BitVec.allOnes 8 by decide,
    show opwB (0xFFFFFFFFFFFFFF : Opw) = BitVec.allOnes 8 by decide,
    show opwT (0xFFFFFFFFFFFFFF : Opw) = BitVec.allOnes 32 by decide,
    show opwOp (0x60000000000000 : Opw) = 6 by decide, show opwZ (0x60000000000000 : Opw) = 0 by decide,
    show opwA (0x60000000000000 : Opw) = 0 by decide, show opwB (0x60000000000000 : Opw) = 0 by decide,
    show opwT (0x60000000000000 : Opw) = 0 by decide,
    BitVec.and_allOnes]

/-- "In `WAITR`, bits 47:41 must be 0 and bit 40 is `x`" (R66). -/
theorem waitrRow_selects (w : Opw) : waitrRow.Selects w ↔
    opwOp w = 3 ∧ opwZ w = 0 ∧ opwA w = waitrOperand (opwX w) ∧ opwB w = 0 ∧ opwT w = 0 := by
  have bitZero : ∀ a : Byte, a &&& 0xFE = 0 ↔ a = waitrOperand (a.getLsbD 0) := by decide
  rw [selects_iff, opwX_eq, ← bitZero]
  simp only [waitrRow, show opwOp (0xFFFEFFFFFFFFFF : Opw) = BitVec.allOnes 4 by decide,
    show opwZ (0xFFFEFFFFFFFFFF : Opw) = BitVec.allOnes 4 by decide,
    show opwA (0xFFFEFFFFFFFFFF : Opw) = 0xFE by decide,
    show opwB (0xFFFEFFFFFFFFFF : Opw) = BitVec.allOnes 8 by decide,
    show opwT (0xFFFEFFFFFFFFFF : Opw) = BitVec.allOnes 32 by decide,
    show opwOp (0x30000000000000 : Opw) = 3 by decide, show opwZ (0x30000000000000 : Opw) = 0 by decide,
    show opwA (0x30000000000000 : Opw) = 0 by decide, show opwB (0x30000000000000 : Opw) = 0 by decide,
    show opwT (0x30000000000000 : Opw) = 0 by decide,
    BitVec.and_allOnes]

/-- The fields of a packed command byte (R61). -/
@[simp] theorem cmdPeriod_packCmd (p a : Nibble) : cmdPeriod (packCmd p a) = p := by
  revert p a; decide

@[simp] theorem cmdAxisIndex_packCmd (p a : Nibble) : cmdAxisIndex (packCmd p a) = a := by
  revert p a; decide

/-- A command byte is the packing of its fields (R61). -/
theorem packCmd_fields (c : Byte) : packCmd (cmdPeriod c) (cmdAxisIndex c) = c := by
  revert c; decide

/-- `CMD = 16 * period + axisIndex` as a number (R61). -/
theorem packCmd_toNat (p a : Nibble) : (packCmd p a).toNat = 16 * p.toNat + a.toNat := by
  revert p a; decide

end Sys2Proof.Laws
end

