-- ==== Sys2Proof/Laws/Ops.lean ====
section
/-!
SUPPORT. Laws/Ops.lean: what each shared operation can do, said once.
-/
namespace Sys2Proof.Laws
open Sys2Proof.Machine

/-- A checked result is a next state only under a legal configuration. -/
theorem requireConfig_next {c : Config} {r : Result} {t : State} :
    requireConfig c r = .next t ↔ c.Legal ∧ r = .next t := by
  unfold requireConfig
  split
  · exact ⟨fun e => ⟨‹_›, e⟩, fun e => e.2⟩
  · exact ⟨fun e => (nomatch e), fun e => absurd e.1 ‹_›⟩

theorem requireConfig_fault {c : Config} {r : Result} {f : Fault} :
    requireConfig c r = .fault f ↔ c.Legal ∧ r = .fault f := by
  unfold requireConfig
  split
  · exact ⟨fun e => ⟨‹_›, e⟩, fun e => e.2⟩
  · exact ⟨fun e => (nomatch e), fun e => absurd e.1 ‹_›⟩

theorem requireConfig_of_legal {c : Config} (h : c.Legal) (r : Result) : requireConfig c r = r :=
  if_pos h

theorem requireConfig_of_not_legal {c : Config} (h : ¬ c.Legal) (r : Result) :
    requireConfig c r = .refused .badConfig :=
  if_neg h

/-- Numbers name the six registers and nothing else (R20). -/
theorem ofNumber_number (r : RegName) : RegName.ofNumber r.number = some r := by
  cases r <;> rfl

/-- A code names its status (R10). -/
theorem ofCode_code (c : Status) : Status.ofCode c.code = c := by
  cases c <;> rfl

theorem code_ofCode (c : BitVec 2) : (Status.ofCode c).code = c := by
  revert c; decide

/-- The read of a register is valid as its valid bit says (R20). -/
theorem readReg_isSome (s : State) (r : RegName) : (s.readReg r).isSome = s.validBit r := by
  cases r <;> simp [State.readReg, State.validBit, State.cv, State.tv, State.lv, State.hv, State.rv]

/-- The ROM has a word at 0 to 7, and none above (R42). -/
theorem trom_isSome (i : Nat) : (trom i).isSome ↔ i ≤ 7 := by
  rw [trom, isSome_getElem?]
  simp [tromWords]
  omega

theorem trom_eq_none (i : Nat) (h : 7 < i) : trom i = none := by
  rw [trom, List.getElem?_eq_none_iff]
  exact h

/-- No word of the ROM is 0 (R23, R41). -/
theorem trom_ne_zero {i : Nat} {w : Half} (h : trom i = some w) : w ≠ 0 := by
  have hi : i ≤ 7 := (trom_isSome i).1 (by simp [h])
  interval_cases i <;> (injection h with h; subst h; decide)

/-- An effective timeout is never 0 (R90 b). -/
theorem effectiveTimeout_ne_zero {p : Byte} {t u : Word32} (h : effectiveTimeout p t = some u) : u ≠ 0 := by
  unfold effectiveTimeout at h
  split at h
  · rintro rfl; simp_all
  · split at h
    · simp only [Option.map_eq_some_iff] at h
      obtain ⟨w, hw, rfl⟩ := h
      intro hz
      have hn := congrArg BitVec.toNat hz
      have hlt := w.isLt
      simp only [BitVec.toNat_setWidth] at hn
      refine trom_ne_zero hw (BitVec.eq_of_toNat_eq ?_)
      rw [Nat.mod_eq_of_lt (by omega)] at hn
      simpa using hn
    · simp at h

/-- There is no effective timeout exactly when the caller left it open and the period has no word (R90). -/
theorem effectiveTimeout_eq_none {p : Byte} {t : Word32} :
    effectiveTimeout p t = none ↔ t = 0 ∧ 7 < p.toNat := by
  unfold effectiveTimeout
  by_cases ht : t = 0
  case neg => rw [if_pos ht]; simp [show t ≠ 0#32 from ht]
  · by_cases hp : p.toNat ≤ 7
    · have := (trom_isSome p.toNat).2 hp
      simp only [ht, hp, if_true, ne_eq, not_true, if_false, Option.map_eq_none_iff, true_and]
      constructor
      · intro h; simp [h] at this
      · intro h; omega
    · simp [ht, hp]
      omega

/-- The first byte is the high byte (R44). -/
theorem sampleOf_toNat (b0 b1 : Byte) : (sampleOf b0 b1).toNat = 256 * b0.toNat + b1.toNat := by
  have h0 := b0.isLt
  have h1 := b1.isLt
  have : sampleOf b0 b1 = b0 ++ b1 := by
    apply BitVec.eq_of_getLsbD_eq
    intro i hi
    rw [BitVec.getLsbD_append]
    by_cases h8 : i < 8
    · simp [sampleOf, h8, hi]
    · simp [sampleOf, h8, hi, BitVec.getLsbD_of_ge b1 i (by omega)]
  rw [this, BitVec.toNat_append, Nat.shiftLeft_eq, Nat.mul_comm, ← Nat.two_pow_add_eq_or_of_lt h1]

end Sys2Proof.Laws
end

