-- ==== Sys2Proof/Laws/Exec.lean ====
section
/-!
SUPPORT. Laws/Exec.lean: one inversion lemma per meaning: if it answers a next state, which one and when.
-/
namespace Sys2Proof.Laws
open Sys2Proof.Machine

variable {s t : State}

theorem execEnc_next {axis period : Byte} (h : execEnc axis period s = .next t) : s.cfg.Legal ∧
    ((¬ axisValid s.cfg axis ∧ t = { s with st := .badAxis, cmd := none }) ∨
      (axisValid s.cfg axis ∧ ¬ periodValid period ∧ t = { s with st := .badPeriod, cmd := none }) ∨
      (axisValid s.cfg axis ∧ periodValid period ∧
        t = { s with st := .noError, cmd := some (commandByte s.cfg axis period) })) := by
  obtain ⟨hc, h⟩ := requireConfig_next.1 h
  refine ⟨hc, ?_⟩
  split at h
  case isTrue ha => injection h with h; exact .inl ⟨ha, h.symm⟩
  case isFalse ha =>
    have ha := not_not.1 ha
    split at h
    case isTrue hp => injection h with h; exact .inr (.inl ⟨ha, hp, h.symm⟩)
    case isFalse hp => injection h with h; exact .inr (.inr ⟨ha, not_not.1 hp, h.symm⟩)

theorem execTmo_next {period : Byte} {timeout : Word32} (h : execTmo period timeout s = .next t) :
    s.cfg.Legal ∧
      ((∃ u, effectiveTimeout period timeout = some u ∧ t = { s with st := .noError, tmo := some u }) ∨
        (effectiveTimeout period timeout = none ∧ t = { s with st := .badPeriod, tmo := none })) := by
  obtain ⟨hc, h⟩ := requireConfig_next.1 h
  refine ⟨hc, ?_⟩
  split at h
  case h_1 u hu => injection h with h; exact .inl ⟨u, hu, h.symm⟩
  case h_2 hu => injection h with h; exact .inr ⟨hu, h.symm⟩

theorem execWaitr_next {x : Bool} (h : execWaitr x s = .next t) :
    s.cfg.Legal ∧ t = { s with st := if x then .timeout else .noError } := by
  obtain ⟨hc, h⟩ := requireConfig_next.1 h
  refine ⟨hc, ?_⟩
  cases x <;> (injection h with h; exact h.symm)

theorem execLdl_next {b0 b1 : Byte} (h : execLdl b0 b1 s = .next t) :
    s.cfg.Legal ∧ t = { s with low := some (sampleOf b0 b1) } := by
  obtain ⟨hc, h⟩ := requireConfig_next.1 h
  injection h with h
  exact ⟨hc, h.symm⟩

theorem execLdh_next {b0 b1 : Byte} (h : execLdh b0 b1 s = .next t) :
    s.cfg.Legal ∧ t = { s with high := some (sampleOf b0 b1) } := by
  obtain ⟨hc, h⟩ := requireConfig_next.1 h
  injection h with h
  exact ⟨hc, h.symm⟩

theorem execFuse_next (h : execFuse s = .next t) : s.cfg.Legal ∧ ∃ l k, s.low = some l ∧ s.high = some k ∧
    t = { s with
      res := some (BitVec.ofInt 32 (fuseValue s.cfg l.toInt k.toInt)), low := none, high := none } := by
  obtain ⟨hc, h⟩ := requireConfig_next.1 h
  refine ⟨hc, ?_⟩
  split at h
  case h_1 l k hl hk => injection h with h; exact ⟨l, k, hl, hk, h.symm⟩
  case h_2 => cases h

/-- A command byte of the table never has a next state (R84). -/
theorem sensorOnly_ne_next : sensorOnly s ≠ .next t := nofun

end Sys2Proof.Laws
end

