-- ==== Sys2Proof/Laws/PerInstr.lean ====
section
/-!
SUPPORT. Laws/PerInstr.lean: statements made per instruction. Family `OpcodeRow`: the instruction's word agrees
with its own row of spec/opcode_table.json and with no other of its format (spec/30_encoding.md R66, R74, R75).
-/
namespace Sys2Proof.Laws

/-- The match of a `CMD` row under the mask 0xF0 (the opcode table); none for an operation. -/
def cmdMatch : Instr → Option Byte
  | .enc _ _ => none
  | .tmo _ _ => none
  | .waitr _ => none
  | .ldl _ _ => none
  | .ldh _ _ => none
  | .fuse => none
  | .cmdP32 _ => some 0x00
  | .cmdP64 _ => some 0x10
  | .cmdP128 _ => some 0x20
  | .cmdP256 _ => some 0x30
  | .cmdP512 _ => some 0x40
  | .cmdP1024 _ => some 0x50
  | .cmdP2048 _ => some 0x60
  | .cmdP4096 _ => some 0x70

/-- The word of `i` is selected by `i`'s row and by no other row of its format. -/
def OpcodeRow.Statement (i : Instr) : Prop :=
  match encode i with
  | .opw w => ∀ r ∈ opwRows, r.Selects w ↔ rowOf i = some r
  | .cmd c => cmdMatch i = some (c &&& 0xF0)

namespace OpcodeRow

/-- The rows that select a packed word, by its fields. -/
theorem rows_of_pack (op : Nibble) (a b : Byte) (t : Word32) (r : OpwRow) (hr : r ∈ opwRows)
    (h : r.Selects (packOpw op 0 a b t)) : op = opwOp r.val := by
  have hop := (opwOp_packOpw op 0 a b t).symm
  simp only [opwRows, List.mem_cons, List.not_mem_nil, or_false] at hr
  rcases hr with rfl | rfl | rfl | rfl | rfl | rfl
  · exact hop.trans (((encRow_selects _).1 h).1.trans (by decide))
  · exact hop.trans (((tmoRow_selects _).1 h).1.trans (by decide))
  · exact hop.trans (((waitrRow_selects _).1 h).1.trans (by decide))
  · exact hop.trans (((ldlRow_selects _).1 h).1.trans (by decide))
  · exact hop.trans (((ldhRow_selects _).1 h).1.trans (by decide))
  · exact hop.trans (((fuseRow_selects _).1 h).1.trans (by decide))

/-- A row of the table is known by its `op` (R65). -/
theorem row_of_op : ∀ r ∈ opwRows, ∀ q ∈ opwRows, opwOp r.val = opwOp q.val → r = q := by decide

/-- One selecting row is enough: no other can select the word. -/
theorem of_selects {i : Instr} {op : Nibble} {a b : Byte} {t : Word32} {q : OpwRow} (hq : q ∈ opwRows)
    (henc : encode i = .opw (packOpw op 0 a b t)) (hrow : rowOf i = some q)
    (hop : op = opwOp q.val) (hsel : q.Selects (packOpw op 0 a b t)) : Statement i := by
  simp only [Statement, henc, hrow]
  intro r hr
  constructor
  · intro h
    have := (rows_of_pack op a b t r hr h).symm.trans hop
    rw [row_of_op r hr q hq this]
  · intro h
    injection h with h
    exact h ▸ hsel

theorem enc (axis period : Byte) : Statement (.enc axis period) :=
  of_selects (q := encRow) (by decide) rfl rfl (by decide) ((encRow_selects _).2 (by simp))

theorem tmo (period : Byte) (timeout : Word32) : Statement (.tmo period timeout) :=
  of_selects (q := tmoRow) (by decide) rfl rfl (by decide) ((tmoRow_selects _).2 (by simp))

theorem waitr (x : Bool) : Statement (.waitr x) :=
  of_selects (q := waitrRow) (by decide) rfl rfl (by decide)
    ((waitrRow_selects _).2 (by cases x <;> simp [opwX_eq, waitrOperand]))

theorem ldl (b0 b1 : Byte) : Statement (.ldl b0 b1) :=
  of_selects (q := ldlRow) (by decide) rfl rfl (by decide) ((ldlRow_selects _).2 (by simp))

theorem ldh (b0 b1 : Byte) : Statement (.ldh b0 b1) :=
  of_selects (q := ldhRow) (by decide) rfl rfl (by decide) ((ldhRow_selects _).2 (by simp))

theorem fuse : Statement .fuse :=
  of_selects (q := fuseRow) (by decide) rfl rfl (by decide) ((fuseRow_selects _).2 (by simp))

/-- The high half of a packed command byte is its period field. -/
theorem packCmd_masked (p a : Nibble) : packCmd p a &&& 0xF0 = packCmd p 0 := by
  revert p a; decide

theorem cmdP32 (a : Nibble) : Statement (.cmdP32 a) := congrArg some (packCmd_masked 0 a).symm
theorem cmdP64 (a : Nibble) : Statement (.cmdP64 a) := congrArg some (packCmd_masked 1 a).symm
theorem cmdP128 (a : Nibble) : Statement (.cmdP128 a) := congrArg some (packCmd_masked 2 a).symm
theorem cmdP256 (a : Nibble) : Statement (.cmdP256 a) := congrArg some (packCmd_masked 3 a).symm
theorem cmdP512 (a : Nibble) : Statement (.cmdP512 a) := congrArg some (packCmd_masked 4 a).symm
theorem cmdP1024 (a : Nibble) : Statement (.cmdP1024 a) := congrArg some (packCmd_masked 5 a).symm
theorem cmdP2048 (a : Nibble) : Statement (.cmdP2048 a) := congrArg some (packCmd_masked 6 a).symm
theorem cmdP4096 (a : Nibble) : Statement (.cmdP4096 a) := congrArg some (packCmd_masked 7 a).symm

end OpcodeRow
end Sys2Proof.Laws
end

