-- ==== Sys2Proof/Laws/State.lean ====
section
/-!
SUPPORT. Laws/State.lean: one lemma per field per update of the state, each by rfl.
-/
namespace Sys2Proof.Laws
open Sys2Proof.Machine

variable (s : State)

/-! ### reportSuccess -/

@[simp] theorem reportSuccess_cfg : (s.reportSuccess).cfg = s.cfg := rfl
@[simp] theorem reportSuccess_st : (s.reportSuccess).st = .noError := rfl
@[simp] theorem reportSuccess_cmd : (s.reportSuccess).cmd = s.cmd := rfl
@[simp] theorem reportSuccess_tmo : (s.reportSuccess).tmo = s.tmo := rfl
@[simp] theorem reportSuccess_low : (s.reportSuccess).low = s.low := rfl
@[simp] theorem reportSuccess_high : (s.reportSuccess).high = s.high := rfl
@[simp] theorem reportSuccess_res : (s.reportSuccess).res = s.res := rfl
@[simp] theorem reportSuccess_port : (s.reportSuccess).port = s.port := rfl
@[simp] theorem reportSuccess_program : (s.reportSuccess).program = s.program := rfl
@[simp] theorem reportSuccess_activity : (s.reportSuccess).activity = s.activity := rfl
@[simp] theorem reportSuccess_ret : (s.reportSuccess).ret = s.ret := rfl
@[simp] theorem reportSuccess_trace : (s.reportSuccess).trace = s.trace := rfl
@[simp] theorem reportSuccess_issued : (s.reportSuccess).issued = s.issued := rfl
@[simp] theorem reportSuccess_draws : (s.reportSuccess).draws = s.draws := rfl

/-! ### reportError with destination st -/

@[simp] theorem reportError_st_cfg (code : Status) : (s.reportError code .st).cfg = s.cfg := rfl
@[simp] theorem reportError_st_st (code : Status) : (s.reportError code .st).st = code := rfl
@[simp] theorem reportError_st_cmd (code : Status) : (s.reportError code .st).cmd = s.cmd := rfl
@[simp] theorem reportError_st_tmo (code : Status) : (s.reportError code .st).tmo = s.tmo := rfl
@[simp] theorem reportError_st_low (code : Status) : (s.reportError code .st).low = s.low := rfl
@[simp] theorem reportError_st_high (code : Status) : (s.reportError code .st).high = s.high := rfl
@[simp] theorem reportError_st_res (code : Status) : (s.reportError code .st).res = s.res := rfl
@[simp] theorem reportError_st_port (code : Status) : (s.reportError code .st).port = s.port := rfl
@[simp] theorem reportError_st_program (code : Status) : (s.reportError code .st).program = s.program := rfl
@[simp] theorem reportError_st_activity (code : Status) : (s.reportError code .st).activity = s.activity := rfl
@[simp] theorem reportError_st_ret (code : Status) : (s.reportError code .st).ret = s.ret := rfl
@[simp] theorem reportError_st_trace (code : Status) : (s.reportError code .st).trace = s.trace := rfl
@[simp] theorem reportError_st_issued (code : Status) : (s.reportError code .st).issued = s.issued := rfl
@[simp] theorem reportError_st_draws (code : Status) : (s.reportError code .st).draws = s.draws := rfl

/-! ### reportError with destination cmd -/

@[simp] theorem reportError_cmd_cfg (code : Status) : (s.reportError code .cmd).cfg = s.cfg := rfl
@[simp] theorem reportError_cmd_st (code : Status) : (s.reportError code .cmd).st = code := rfl
@[simp] theorem reportError_cmd_cmd (code : Status) : (s.reportError code .cmd).cmd = none := rfl
@[simp] theorem reportError_cmd_tmo (code : Status) : (s.reportError code .cmd).tmo = s.tmo := rfl
@[simp] theorem reportError_cmd_low (code : Status) : (s.reportError code .cmd).low = s.low := rfl
@[simp] theorem reportError_cmd_high (code : Status) : (s.reportError code .cmd).high = s.high := rfl
@[simp] theorem reportError_cmd_res (code : Status) : (s.reportError code .cmd).res = s.res := rfl
@[simp] theorem reportError_cmd_port (code : Status) : (s.reportError code .cmd).port = s.port := rfl
@[simp] theorem reportError_cmd_program (code : Status) : (s.reportError code .cmd).program = s.program := rfl
@[simp] theorem reportError_cmd_activity (code : Status) : (s.reportError code .cmd).activity = s.activity := rfl
@[simp] theorem reportError_cmd_ret (code : Status) : (s.reportError code .cmd).ret = s.ret := rfl
@[simp] theorem reportError_cmd_trace (code : Status) : (s.reportError code .cmd).trace = s.trace := rfl
@[simp] theorem reportError_cmd_issued (code : Status) : (s.reportError code .cmd).issued = s.issued := rfl
@[simp] theorem reportError_cmd_draws (code : Status) : (s.reportError code .cmd).draws = s.draws := rfl

/-! ### reportError with destination tmo -/

@[simp] theorem reportError_tmo_cfg (code : Status) : (s.reportError code .tmo).cfg = s.cfg := rfl
@[simp] theorem reportError_tmo_st (code : Status) : (s.reportError code .tmo).st = code := rfl
@[simp] theorem reportError_tmo_cmd (code : Status) : (s.reportError code .tmo).cmd = s.cmd := rfl
@[simp] theorem reportError_tmo_tmo (code : Status) : (s.reportError code .tmo).tmo = none := rfl
@[simp] theorem reportError_tmo_low (code : Status) : (s.reportError code .tmo).low = s.low := rfl
@[simp] theorem reportError_tmo_high (code : Status) : (s.reportError code .tmo).high = s.high := rfl
@[simp] theorem reportError_tmo_res (code : Status) : (s.reportError code .tmo).res = s.res := rfl
@[simp] theorem reportError_tmo_port (code : Status) : (s.reportError code .tmo).port = s.port := rfl
@[simp] theorem reportError_tmo_program (code : Status) : (s.reportError code .tmo).program = s.program := rfl
@[simp] theorem reportError_tmo_activity (code : Status) : (s.reportError code .tmo).activity = s.activity := rfl
@[simp] theorem reportError_tmo_ret (code : Status) : (s.reportError code .tmo).ret = s.ret := rfl
@[simp] theorem reportError_tmo_trace (code : Status) : (s.reportError code .tmo).trace = s.trace := rfl
@[simp] theorem reportError_tmo_issued (code : Status) : (s.reportError code .tmo).issued = s.issued := rfl
@[simp] theorem reportError_tmo_draws (code : Status) : (s.reportError code .tmo).draws = s.draws := rfl

/-! ### issue -/

@[simp] theorem issue_cfg (i : Instr) : (s.issue i).cfg = s.cfg := rfl
@[simp] theorem issue_st (i : Instr) : (s.issue i).st = s.st := rfl
@[simp] theorem issue_cmd (i : Instr) : (s.issue i).cmd = s.cmd := rfl
@[simp] theorem issue_tmo (i : Instr) : (s.issue i).tmo = s.tmo := rfl
@[simp] theorem issue_low (i : Instr) : (s.issue i).low = s.low := rfl
@[simp] theorem issue_high (i : Instr) : (s.issue i).high = s.high := rfl
@[simp] theorem issue_res (i : Instr) : (s.issue i).res = s.res := rfl
@[simp] theorem issue_port (i : Instr) : (s.issue i).port = some (encode i) := rfl
@[simp] theorem issue_program (i : Instr) : (s.issue i).program = s.program := rfl
@[simp] theorem issue_activity (i : Instr) : (s.issue i).activity = s.activity := rfl
@[simp] theorem issue_ret (i : Instr) : (s.issue i).ret = s.ret := rfl
@[simp] theorem issue_trace (i : Instr) : (s.issue i).trace = s.trace := rfl
@[simp] theorem issue_issued (i : Instr) : (s.issue i).issued = s.issued ++ [i] := rfl
@[simp] theorem issue_draws (i : Instr) : (s.issue i).draws = s.draws := rfl

/-! ### emit -/

@[simp] theorem emit_cfg (e : Event) : (s.emit e).cfg = s.cfg := rfl
@[simp] theorem emit_st (e : Event) : (s.emit e).st = s.st := rfl
@[simp] theorem emit_cmd (e : Event) : (s.emit e).cmd = s.cmd := rfl
@[simp] theorem emit_tmo (e : Event) : (s.emit e).tmo = s.tmo := rfl
@[simp] theorem emit_low (e : Event) : (s.emit e).low = s.low := rfl
@[simp] theorem emit_high (e : Event) : (s.emit e).high = s.high := rfl
@[simp] theorem emit_res (e : Event) : (s.emit e).res = s.res := rfl
@[simp] theorem emit_port (e : Event) : (s.emit e).port = s.port := rfl
@[simp] theorem emit_program (e : Event) : (s.emit e).program = s.program := rfl
@[simp] theorem emit_activity (e : Event) : (s.emit e).activity = s.activity := rfl
@[simp] theorem emit_ret (e : Event) : (s.emit e).ret = s.ret := rfl
@[simp] theorem emit_trace (e : Event) : (s.emit e).trace = s.trace ++ [e] := rfl
@[simp] theorem emit_issued (e : Event) : (s.emit e).issued = s.issued := rfl
@[simp] theorem emit_draws (e : Event) : (s.emit e).draws = s.draws := rfl

/-! ### The draws change nothing but `draws` -/

@[simp] theorem drawByte_cfg : (s.drawByte.2).cfg = s.cfg := by
  unfold State.drawByte; split <;> rfl
@[simp] theorem drawByte_st : (s.drawByte.2).st = s.st := by
  unfold State.drawByte; split <;> rfl
@[simp] theorem drawByte_cmd : (s.drawByte.2).cmd = s.cmd := by
  unfold State.drawByte; split <;> rfl
@[simp] theorem drawByte_tmo : (s.drawByte.2).tmo = s.tmo := by
  unfold State.drawByte; split <;> rfl
@[simp] theorem drawByte_low : (s.drawByte.2).low = s.low := by
  unfold State.drawByte; split <;> rfl
@[simp] theorem drawByte_high : (s.drawByte.2).high = s.high := by
  unfold State.drawByte; split <;> rfl
@[simp] theorem drawByte_res : (s.drawByte.2).res = s.res := by
  unfold State.drawByte; split <;> rfl
@[simp] theorem drawByte_port : (s.drawByte.2).port = s.port := by
  unfold State.drawByte; split <;> rfl
@[simp] theorem drawByte_program : (s.drawByte.2).program = s.program := by
  unfold State.drawByte; split <;> rfl
@[simp] theorem drawByte_activity : (s.drawByte.2).activity = s.activity := by
  unfold State.drawByte; split <;> rfl
@[simp] theorem drawByte_ret : (s.drawByte.2).ret = s.ret := by
  unfold State.drawByte; split <;> rfl
@[simp] theorem drawByte_trace : (s.drawByte.2).trace = s.trace := by
  unfold State.drawByte; split <;> rfl
@[simp] theorem drawByte_issued : (s.drawByte.2).issued = s.issued := by
  unfold State.drawByte; split <;> rfl

@[simp] theorem drawWait_cfg : (s.drawWait.2).cfg = s.cfg := by
  unfold State.drawWait; split <;> rfl
@[simp] theorem drawWait_st : (s.drawWait.2).st = s.st := by
  unfold State.drawWait; split <;> rfl
@[simp] theorem drawWait_cmd : (s.drawWait.2).cmd = s.cmd := by
  unfold State.drawWait; split <;> rfl
@[simp] theorem drawWait_tmo : (s.drawWait.2).tmo = s.tmo := by
  unfold State.drawWait; split <;> rfl
@[simp] theorem drawWait_low : (s.drawWait.2).low = s.low := by
  unfold State.drawWait; split <;> rfl
@[simp] theorem drawWait_high : (s.drawWait.2).high = s.high := by
  unfold State.drawWait; split <;> rfl
@[simp] theorem drawWait_res : (s.drawWait.2).res = s.res := by
  unfold State.drawWait; split <;> rfl
@[simp] theorem drawWait_port : (s.drawWait.2).port = s.port := by
  unfold State.drawWait; split <;> rfl
@[simp] theorem drawWait_program : (s.drawWait.2).program = s.program := by
  unfold State.drawWait; split <;> rfl
@[simp] theorem drawWait_activity : (s.drawWait.2).activity = s.activity := by
  unfold State.drawWait; split <;> rfl
@[simp] theorem drawWait_ret : (s.drawWait.2).ret = s.ret := by
  unfold State.drawWait; split <;> rfl
@[simp] theorem drawWait_trace : (s.drawWait.2).trace = s.trace := by
  unfold State.drawWait; split <;> rfl
@[simp] theorem drawWait_issued : (s.drawWait.2).issued = s.issued := by
  unfold State.drawWait; split <;> rfl

/-- A listed byte is the next byte drawn. -/
theorem drawByte_cons (b : Byte) (bs : List Byte) (h : s.draws.bytes = b :: bs) :
    s.drawByte = (b, { s with draws := { s.draws with bytes := bs } }) := by
  simp [State.drawByte, h]

/-- A listed outcome is the next outcome drawn. -/
theorem drawWait_cons (w : WaitOutcome) (ws : List WaitOutcome) (h : s.draws.waits = w :: ws) :
    s.drawWait = (w, { s with draws := { s.draws with waits := ws } }) := by
  simp [State.drawWait, h]

end Sys2Proof.Laws
end

