-- ==== Sys2Proof/Laws/Sequences.lean ====
section
/-!
SUPPORT. Laws/Sequences.lean: what a line of a sequence leaves alone, and runs of several steps.
-/
namespace Sys2Proof.Laws
open Sys2Proof.Machine

/-- The state a step of a sequence leaves, if it does not stop. -/
def after {π ρ : Type} : Progress π ρ → Option State
  | .goto _ s => some s
  | .done _ s => some s
  | .fault _ => none

theorem sameBlock_refl (s : State) : SameBlock s s := ⟨rfl, rfl, rfl, rfl, rfl, rfl, rfl⟩

theorem sameBlock_trans {s t u : State} (h : SameBlock s t) (k : SameBlock t u) : SameBlock s u :=
  ⟨k.1.trans h.1, k.2.trans h.2, k.3.trans h.3, k.4.trans h.4, k.5.trans h.5, k.6.trans h.6, k.7.trans h.7⟩

theorem sameBlock_issue (s : State) (i : Instr) : SameBlock s (s.issue i) :=
  ⟨rfl, rfl, rfl, rfl, rfl, rfl, rfl⟩

theorem sameBlock_emit (s : State) (e : Event) : SameBlock s (s.emit e) :=
  ⟨rfl, rfl, rfl, rfl, rfl, rfl, rfl⟩

theorem sameBlock_drawByte (s : State) : SameBlock s s.drawByte.2 := by
  constructor <;> simp

theorem sameBlock_drawWait (s : State) : SameBlock s s.drawWait.2 := by
  constructor <;> simp

theorem stepConvert_sameBlock {axis period : Byte} {p : ConvertPoint} {s t : State}
    (h : after (stepConvert axis period p s) = some t) : SameBlock s t := by
  cases p <;> simp only [stepConvert] at h
  case test => split at h <;> (injection h with h; subst h; exact sameBlock_refl s)
  case tx =>
    split at h
    · injection h with h; subst h; exact sameBlock_emit s _
    · cases h
  case enc => injection h with h; subst h; exact sameBlock_issue s _
  case ret => injection h with h; subst h; exact sameBlock_refl s
  all_goals (injection h with h; subst h; exact sameBlock_emit s _)

theorem stepGet_sameBlock {d : Dest} {p : GetPoint} {s t : State}
    (h : after (stepGet d p s) = some t) : SameBlock s t := by
  cases p <;> (simp only [stepGet] at h; injection h with h; subst h)
  case sel => exact sameBlock_emit s _
  case rx0 => exact sameBlock_trans (sameBlock_drawByte s) (sameBlock_emit _ _)
  case rx1 => exact sameBlock_trans (sameBlock_drawByte s) (sameBlock_emit _ _)
  case desel => exact sameBlock_emit s _
  case load => exact sameBlock_issue s _
  case ret => exact sameBlock_refl s

theorem stepRead_sameBlock {d a p tm} {q : ReadPoint} {s t : State}
    (h : after (stepRead d a p tm q s) = some t) : SameBlock s t := by
  cases q <;> simp only [stepRead] at h
  case converting q =>
    cases hc : stepConvert a p q s with
    | goto q' s' => rw [hc] at h; injection h with h; subst h; exact stepConvert_sameBlock (by rw [hc]; rfl)
    | done c s' =>
      rw [hc] at h; simp only at h
      split at h <;> (injection h with h; subst h; exact stepConvert_sameBlock (by rw [hc]; rfl))
    | fault f => rw [hc] at h; cases h
  case getting q =>
    cases hc : stepGet d q s with
    | goto q' s' => rw [hc] at h; injection h with h; subst h; exact stepGet_sameBlock (by rw [hc]; rfl)
    | done c s' => rw [hc] at h; injection h with h; subst h; exact stepGet_sameBlock (by rw [hc]; rfl)
    | fault f => rw [hc] at h; cases h
  case tmo => injection h with h; subst h; exact sameBlock_issue s _
  case report => injection h with h; subst h; exact sameBlock_issue s _
  case test => split at h <;> (injection h with h; subst h; exact sameBlock_refl s)
  case latch =>
    split at h
    · injection h with h; subst h; exact sameBlock_refl s
    · cases h
  case wait =>
    split at h
    · injection h with h; subst h; exact sameBlock_trans (sameBlock_drawWait s) (sameBlock_emit _ _)
    · injection h with h; subst h; exact sameBlock_emit _ _
  case judge w => cases w <;> (injection h with h; subst h; exact sameBlock_refl s)

theorem stepReadHp_sameBlock {a tm} {q : ReadHpPoint} {s t : State}
    (h : after (stepReadHp a tm q s) = some t) : SameBlock s t := by
  cases q <;> simp only [stepReadHp] at h
  case low q =>
    cases hc : stepRead .low a 6 tm q s with
    | goto q' s' => rw [hc] at h; injection h with h; subst h; exact stepRead_sameBlock (by rw [hc]; rfl)
    | done c s' =>
      rw [hc] at h; simp only at h
      split at h <;> (injection h with h; subst h; exact stepRead_sameBlock (by rw [hc]; rfl))
    | fault f => rw [hc] at h; cases h
  case high q =>
    cases hc : stepRead .high a 7 tm q s with
    | goto q' s' => rw [hc] at h; injection h with h; subst h; exact stepRead_sameBlock (by rw [hc]; rfl)
    | done c s' =>
      rw [hc] at h; simp only at h
      split at h <;> (injection h with h; subst h; exact stepRead_sameBlock (by rw [hc]; rfl))
    | fault f => rw [hc] at h; cases h
  case fuse => injection h with h; subst h; exact sameBlock_issue s _
  case ret =>
    split at h
    · injection h with h; subst h; exact sameBlock_refl s
    · cases h

theorem stepBegin_sameBlock {q : BeginPoint} {s t : State}
    (h : after (stepBegin q s) = some t) : SameBlock s t := by
  cases q <;> simp only [stepBegin] at h
  case reading q =>
    cases hc : stepRead .low (firstAxis s.cfg) 0 0 q s with
    | goto q' s' => rw [hc] at h; injection h with h; subst h; exact stepRead_sameBlock (by rw [hc]; rfl)
    | done c s' => rw [hc] at h; injection h with h; subst h; exact stepRead_sameBlock (by rw [hc]; rfl)
    | fault f => rw [hc] at h; cases h
  case dirReady =>
    injection h with h; subst h; split
    · exact sameBlock_emit _ _
    · exact sameBlock_refl s
  all_goals (injection h with h; subst h; exact sameBlock_emit s _)

theorem stepActivity_sameBlock {a} {s t : State}
    (h : after (stepActivity a s) = some t) : SameBlock s t := by
  cases a <;> simp only [stepActivity] at h
  case convert a p q =>
    cases hc : stepConvert a p q s with
    | goto q' s' => rw [hc] at h; injection h with h; subst h; exact stepConvert_sameBlock (by rw [hc]; rfl)
    | done c s' => rw [hc] at h; injection h with h; subst h; exact stepConvert_sameBlock (by rw [hc]; rfl)
    | fault f => rw [hc] at h; cases h
  case getResult d q =>
    cases hc : stepGet d q s with
    | goto q' s' => rw [hc] at h; injection h with h; subst h; exact stepGet_sameBlock (by rw [hc]; rfl)
    | done c s' => rw [hc] at h; injection h with h; subst h; exact stepGet_sameBlock (by rw [hc]; rfl)
    | fault f => rw [hc] at h; cases h
  case read d a p t q =>
    cases hc : stepRead d a p t q s with
    | goto q' s' => rw [hc] at h; injection h with h; subst h; exact stepRead_sameBlock (by rw [hc]; rfl)
    | done c s' => rw [hc] at h; injection h with h; subst h; exact stepRead_sameBlock (by rw [hc]; rfl)
    | fault f => rw [hc] at h; cases h
  case readHp a t q =>
    cases hc : stepReadHp a t q s with
    | goto q' s' => rw [hc] at h; injection h with h; subst h; exact stepReadHp_sameBlock (by rw [hc]; rfl)
    | done c s' => rw [hc] at h; injection h with h; subst h; exact stepReadHp_sameBlock (by rw [hc]; rfl)
    | fault f => rw [hc] at h; cases h
  case begin q =>
    cases hc : stepBegin q s with
    | goto q' s' => rw [hc] at h; injection h with h; subst h; exact stepBegin_sameBlock (by rw [hc]; rfl)
    | done c s' => rw [hc] at h; injection h with h; subst h; exact stepBegin_sameBlock (by rw [hc]; rfl)
    | fault f => rw [hc] at h; cases h

theorem hostStep_sameBlock {s t : State} (h : hostStep s = .next t) : SameBlock s t := by
  obtain ⟨_, h⟩ := requireConfig_next.1 h
  split at h
  · injection h with h; subst h; unfold startNext; split <;> exact ⟨rfl,rfl,rfl,rfl,rfl,rfl,rfl⟩
  · rename_i a _
    cases hc : stepActivity a s with
    | goto q' s' => rw [hc] at h; injection h with h; subst h; obtain ⟨h1,h2,h3,h4,h5,h6,h7⟩ := stepActivity_sameBlock (t := s') (by rw [hc]; rfl); exact ⟨h1,h2,h3,h4,h5,h6,h7⟩
    | done c s' => rw [hc] at h; injection h with h; subst h; obtain ⟨h1,h2,h3,h4,h5,h6,h7⟩ := stepActivity_sameBlock (t := s') (by rw [hc]; rfl); exact ⟨h1,h2,h3,h4,h5,h6,h7⟩
    | fault f => rw [hc] at h; cases h

/-! The next line of a program (`startNext`), by what the line is. -/

theorem startNext_of_nil {s : State} (h : s.program = []) : startNext s = s := by
  simp only [startNext, h]

theorem startNext_of_word {s : State} {w : Opw} {rest : List Line} (h : s.program = .word w :: rest) :
    startNext s = { s with port := some (.opw w), program := rest } := by
  simp only [startNext, h]

theorem startNext_of_call {s : State} {c : Call} {rest : List Line} (h : s.program = .call c :: rest) :
    startNext s =
      { s with program := rest, activity := some (enter c), ret := none, trace := [], issued := [] } := by
  simp only [startNext, h]

/-- An idle host under a legal configuration begins its next line. -/
theorem step_of_idle {s : State} (hc : s.cfg.Legal) (hp : s.port = none) (ha : s.activity = none) :
    step s = .next (startNext s) := by
  simp only [step, hp, hostStep, ha, requireConfig_of_legal hc]

/-- `m + n` steps are `m` steps and then `n`. -/
theorem run_add (m n : Nat) (s t : State) (h : Host.Core.run Sys2Proof.core m s = .next t) :
    Host.Core.run Sys2Proof.core (m + n) s = Host.Core.run Sys2Proof.core n t := by
  induction m generalizing s with
  | zero => injection h with h; subst h; rw [Nat.zero_add]
  | succ k ih =>
    rw [Nat.succ_add]
    simp only [Host.Core.run] at h ⊢
    cases hs : Sys2Proof.core.step s with
    | next s' => rw [hs] at h; exact ih s' h
    | fault f => rw [hs] at h; cases h
    | refused r => rw [hs] at h; cases h

end Sys2Proof.Laws
end

