-- ==== Sys2Proof/Tests/Slice0.lean ====
section
/-!
SUPPORT. Tests/Slice0.lean: the smoke test of WellFormed, the words written out from spec/30_encoding.md, one or two
vectors of spec/95_test_vectors.md per instruction, and for each statement of the certificate a witness that meets its
hypotheses. Every expected value is the spec's (a vector's id stands in the theorem's comment).
-/
namespace Sys2Proof.Tests
open Sys2Proof.Machine

/-- An instance of given axis count, axis base and `MOD2_NEG_ODD`, ready line wired. -/
def instanceOf (n base : Nat) (m : Int) : Config :=
  { axisCount := n, readyWired := true, axisBase := base, mod2NegOdd := m }

/-- The vectors' configuration: three axes, one-based, +1, wired. -/
def usual : Config := instanceOf 3 1 1

/-- The reset state of an instance. -/
def fresh (c : Config) : State := State.afterReset c

/-- The result is the next state `t`. -/
def nextIs (r : Result) (t : State) : Bool :=
  match r with
  | .next u => decide (u = t)
  | .fault _ => false
  | .refused _ => false

/-! ### Well-formedness: one ill-formed term for each end of the check, for each row (R63) -/

theorem smoke_low_axisIndex : [Instr.cmdP32 0, .cmdP64 0, .cmdP128 0, .cmdP256 0, .cmdP512 0, .cmdP1024 0,
    .cmdP2048 0, .cmdP4096 0].any (fun i => i.wellFormed 3) = false := by decide

theorem smoke_high_axisIndex : [Instr.cmdP32 4, .cmdP64 4, .cmdP128 4, .cmdP256 4, .cmdP512 4, .cmdP1024 4,
    .cmdP2048 4, .cmdP4096 4].any (fun i => i.wellFormed 3) = false := by decide

theorem smoke_third_axis_of_two : (Instr.cmdP256 3).wellFormed 2 = false := by decide

theorem smoke_good_terms : [Instr.enc 255 255, .tmo 255 0, .waitr true, .ldl 0 0, .ldh 255 255, .fuse, .cmdP32 1,
    .cmdP4096 3].all (fun i => i.wellFormed 3) = true := by decide

theorem smoke_config : ¬ (instanceOf 4 1 1).Legal ∧ ¬ (instanceOf 1 1 1).Legal ∧ ¬ (instanceOf 3 2 1).Legal ∧
    ¬ (instanceOf 3 1 0).Legal ∧ (instanceOf 2 0 (-1)).Legal := by decide

/-! ### Words bit by bit: op, z, a, b, t (R64) or period, axisIndex (R61) -/

theorem word_enc : decodeTableWord 56 0b00010000000000100000001100000000000000000000000000000000
    = some (.enc 2 3) := by decide
theorem word_tmo : decodeTableWord 56 0b00100000000000000000011100000000000000000000010011010010
    = some (.tmo 7 1234) := by decide
theorem word_waitr : decodeTableWord 56 0b00110000000000010000000000000000000000000000000000000000
    = some (.waitr true) := by decide
theorem word_ldl : decodeTableWord 56 0b01000000000100100011010000000000000000000000000000000000
    = some (.ldl 0x12 0x34) := by decide
theorem word_ldh : decodeTableWord 56 0b01010000000000000000011100000000000000000000000000000000
    = some (.ldh 0x00 0x07) := by decide
theorem word_fuse : decodeTableWord 56 0b01100000000000000000000000000000000000000000000000000000
    = some .fuse := by decide
theorem word_cmdP32 : decodeTableWord 8 0b00000011 = some (.cmdP32 3) := by decide
theorem word_cmdP64 : decodeTableWord 8 0b00010001 = some (.cmdP64 1) := by decide
theorem word_cmdP128 : decodeTableWord 8 0b00100010 = some (.cmdP128 2) := by decide
theorem word_cmdP256 : decodeTableWord 8 0b00110010 = some (.cmdP256 2) := by decide
theorem word_cmdP512 : decodeTableWord 8 0b01000001 = some (.cmdP512 1) := by decide
theorem word_cmdP1024 : decodeTableWord 8 0b01010011 = some (.cmdP1024 3) := by decide
theorem word_cmdP2048 : decodeTableWord 8 0b01100001 = some (.cmdP2048 1) := by decide
theorem word_cmdP4096 : decodeTableWord 8 0b01110001 = some (.cmdP4096 1) := by decide

/-- D-1 to D-9. -/
theorem words_reserved : [0x00000000000000, 0x70000000000000, 0xF0000000000000, 0x11020300000000,
    0x10020300000001, 0x20010600000000, 0x30020000000000, 0x30010100000000, 0x60000000000001].all
      (fun w => decide (decodeTableWord 56 w = none)) = true := by decide

/-- D-12 to D-17. -/
theorem bytes_classified :
    classifyCommand 3 0x32 = .legal 3 2 ∧ classifyCommand 3 0x33 = .legal 3 3 ∧
    classifyCommand 2 0x33 = .invalid ∧ classifyCommand 3 0x30 = .invalid ∧
    classifyCommand 3 0x34 = .invalid ∧ classifyCommand 3 0x81 = .invalid ∧
    classifyCommand 3 0x71 = .legal 7 1 := by decide

/-! ### One step an instruction -/

/-- E-16, the zero-based instance. -/
theorem test_enc_zero_based : nextIs (step ((fresh (instanceOf 3 0 1)).withFetchWord 56 0x10020300000000))
    { fresh (instanceOf 3 0 1) with cmd := some 0x33 } = true := by decide

/-- E-14, both operands wrong. -/
theorem test_enc_axis_first :
    nextIs (exec (.enc 0 9) { fresh (instanceOf 2 1 1) with cmd := some 0x11, tmo := some 5 })
      { fresh (instanceOf 2 1 1) with st := .badAxis, tmo := some 5 } = true := by decide

/-- T-8. -/
theorem test_tmo_default : nextIs (step ((fresh usual).withFetchWord 56 0x20000700000000))
    { fresh usual with tmo := some 60001 } = true := by decide

/-- T-13 and T-15. -/
theorem test_tmo_period_past_table :
    nextIs (exec (.tmo 8 0) { fresh usual with tmo := some 1 }) { fresh usual with st := .badPeriod } = true ∧
    nextIs (exec (.tmo 8 5) (fresh usual)) { fresh usual with tmo := some 5 } = true := by decide

/-- W-2 and W-3. -/
theorem test_waitr : nextIs (exec (.waitr true) (fresh usual)) { fresh usual with st := .timeout } = true ∧
    nextIs (exec (.waitr false) { fresh usual with st := .badAxis }) (fresh usual) = true := by decide

/-- L-2 and L-17: the first byte is the high byte, the second is not sign-extended. -/
theorem test_ldl : nextIs (exec (.ldl 0x34 0x12) (fresh usual)) { fresh usual with low := some 13330 } = true := by
  decide
theorem test_ldh : nextIs (exec (.ldh 0x00 0x80) (fresh usual)) { fresh usual with high := some 128 } = true := by
  decide

/-- F-18 under both settings of `MOD2_NEG_ODD`. -/
theorem test_fuse_overflow_path :
    nextIs (exec .fuse { fresh usual with low := some 0x8000, high := some 0xFFFF })
      { fresh usual with res := some 0xFFFF0001 } = true ∧
    nextIs (exec .fuse { fresh (instanceOf 3 1 (-1)) with low := some 0x8000, high := some 0xFFFF })
      { fresh (instanceOf 3 1 (-1)) with res := some 0xFFFEFFFF } = true := by decide

/-- F-25: one inside the band, with sign extension. -/
theorem test_fuse_safe_path : nextIs (exec .fuse { fresh usual with low := some 0xC181, high := some 0xFFFF })
    { fresh usual with res := some 0xFFFFFFFF } = true := by decide

/-- P7. -/
theorem test_fuse_after_reset : step ((fresh usual).withFetchWord 56 0x60000000000000)
    = .fault .fuseOperandInvalid := rfl

/-- R84: a command byte has no step. -/
theorem test_command_bytes_stop :
    (fun w => step ((fresh usual).withFetchWord 8 w)) 0x01 = .refused .sensorCommand ∧
    (fun w => step ((fresh usual).withFetchWord 8 w)) 0x73 = .refused .sensorCommand ∧
    (fun w => step ((fresh usual).withFetchWord 8 w)) 0x81 = .refused .invalidCommand := ⟨rfl, rfl, rfl⟩

/-- X-15: not expired at exactly `T`, expired one microsecond later. -/
theorem test_poll_strict : pollLoop 0 4001 [(false, 4001)] = none ∧
    pollLoop 0 4001 [(false, 4001), (false, 4002)] = some .expired ∧
    pollLoop 0 4001 [(false, 1), (true, 9000)] = some .ready := by decide

/-- R72's own example lines. -/
theorem test_assemble : assemble ["ENC   axis, period".toList] = none ∧
    assemble ["ENC   2, 3".toList, "WAITR 0".toList, "FUSE".toList] =
      some [.word 0x10020300000000, .word 0x30000000000000, .word 0x60000000000000] := by decide

/-! ### Witnesses: each meets all the hypotheses of the statement it is named after -/

theorem witness_ReservedWordsRefused : ({ fresh usual with port := some (.opw 0) } : State).port = some (.opw 0) ∧
    decodeOpw 0 = .error .reservedSelect := ⟨rfl, by decide⟩

theorem witness_EncodeOfDecode : decode (.opw 0x30010000000000) = .ok (.waitr true) ∧
    decode (.cmd 0x30) = .ok (.cmdP256 0) := by decide

/-- The clauses at their boundaries, for both bases: one below the first axis, one past the last, the last with the
largest period, the first with one past it. -/
theorem witness_EncEffect :
    (fresh usual).cfg.Legal ∧ (fresh (instanceOf 2 0 1)).cfg.Legal ∧
    (0 : Byte).toNat < (fresh usual).cfg.axisBase ∧
    (fresh usual).cfg.axisBase + (fresh usual).cfg.axisCount - 1 < (4 : Byte).toNat ∧
    (fresh (instanceOf 2 0 1)).cfg.axisBase + (fresh (instanceOf 2 0 1)).cfg.axisCount - 1 < (2 : Byte).toNat ∧
    ((fresh usual).cfg.axisBase ≤ (1 : Byte).toNat ∧ 7 < (8 : Byte).toNat) ∧
    ((3 : Byte).toNat ≤ (fresh usual).cfg.axisBase + (fresh usual).cfg.axisCount - 1 ∧ (7 : Byte).toNat ≤ 7) := by
  decide

theorem witness_CommandByteVerdict : ((2 : Nat) = 2 ∨ (2 : Nat) = 3) ∧ ((3 : Nat) = 2 ∨ (3 : Nat) = 3) := by decide

theorem witness_CommandByteDeterminesOperands :
    nextIs (exec (.enc 2 3) (fresh usual)) { fresh usual with cmd := some 0x32 } = true ∧
    ({ fresh usual with cmd := some 0x32 } : State).st = .noError := by decide

theorem witness_ProducedCommandBytes : (fresh usual).cfg.Legal := by decide

/-- The clauses at their boundaries: the largest period of the table, one past it, a non-zero timeout with each. -/
theorem witness_TmoEffect : (fresh usual).cfg.Legal ∧ (1 : Word32) ≠ 0 ∧
    [501, 1001, 2001, 4001, 7501, 15001, 35501, 60001][(7 : Byte).toNat]? = some 60001 ∧
    [501, 1001, 2001, 4001, 7501, 15001, 35501, 60001][(0 : Byte).toNat]? = some 501 ∧
    [501, 1001, 2001, 4001, 7501, 15001, 35501, 60001][(8 : Byte).toNat]? = none ∧ 7 < (8 : Byte).toNat := by
  decide

theorem witness_WaitrEffect : (fresh usual).cfg.Legal := by decide

theorem witness_LoadEffect : (fresh usual).cfg.Legal ∧ (0x7F : Byte).toNat < 128 ∧ ¬ (0x80 : Byte).toNat < 128 := by
  decide

/-- Both ends of the band and one inside each; an even, a positive odd and a negative odd high sample. -/
theorem witness_FuseEffect :
    let s : State := { fresh usual with low := some 0x3E80, high := some 0x007B }
    s.cfg.Legal ∧ s.low = some 0x3E80 ∧ s.high = some 0x007B ∧
    16000 ≤ (0x3E80 : Half).toInt ∧ (0xC180 : Half).toInt ≤ -16000 ∧
    (-16000 < (0x3E7F : Half).toInt ∧ (0x3E7F : Half).toInt < 16000) ∧
    (-16000 < (0xC181 : Half).toInt ∧ (0xC181 : Half).toInt < 16000) ∧
    (0xFFFE : Half).getLsbD 0 = false ∧ ((0x007B : Half).getLsbD 0 = true ∧ 0 < (0x007B : Half).toInt) ∧
    ((0xFFF9 : Half).getLsbD 0 = true ∧ (0xFFF9 : Half).toInt < 0) := by decide

theorem witness_FuseFaults : (fresh usual).cfg.Legal ∧ ((fresh usual).low = none ∨ (fresh usual).high = none) := by
  decide

theorem witness_Mod2Readings : (instanceOf 3 1 1).mod2NegOdd = 1 ∧ (instanceOf 3 1 (-1)).mod2NegOdd = -1 ∧
    (0x8001 : Half).getLsbD 0 = true ∧ (0x8001 : Half).toInt < 0 := by decide

theorem witness_FuseRange : (instanceOf 3 1 (-1)).Legal ∧ (0x8000 : Half).toInt ≤ -16000 ∧
    ¬ ((0 : Half).toInt ≤ -16000 ∨ 16000 ≤ (0 : Half).toInt) := by decide

/-- A completed operation, and a second state that differs from the first in registers the operation does not read. -/
theorem witness_AccessMatrix :
    let s : State := { fresh usual with low := some 1, high := some 2 }
    let s' : State := { s with st := .timeout, cmd := some 0x11, tmo := some 9, res := some 8 }
    SameHost s s' ∧ (∀ r, reads .fuse r = true → State.Agree r s s') ∧
      exec .fuse s = .next { s with res := some 2, low := none, high := none } := by
  refine ⟨⟨rfl, rfl, rfl, rfl, rfl, rfl, rfl, rfl⟩, ?_, rfl⟩
  intro r h
  cases r <;> first | rfl | cases h

theorem witness_OutcomesThatAreNoStatus :
    ((fresh usual).cfg.Legal ∧ (fresh usual).low = none) ∧
    decodeOpw 0x70000000000000 = .error .reservedSelect ∧
    (¬ (fresh (instanceOf 4 1 1)).cfg.Legal ∧ rowOf .fuse ≠ none ∧ (fresh (instanceOf 4 1 1)).port = none) := by
  decide

theorem witness_StepRunsDecoded :
    ({ fresh usual with port := some (.opw 0x60000000000000) } : State).port = some (.opw 0x60000000000000) ∧
    decode (.opw 0x60000000000000) = .ok .fuse ∧ decodeTableWord 56 0x40123400000000 = some (.ldl 0x12 0x34) ∧
    (let s : State := { fresh usual with program := [.word 0x60000000000000] }
     s.cfg.Legal ∧ s.port = none ∧ s.activity = none ∧ s.program = [.word 0x60000000000000]) := by
  decide

theorem witness_IdleHost : (fresh usual).cfg.Legal ∧ (fresh usual).port = none ∧ (fresh usual).activity = none ∧
    (fresh usual).program = [] := by decide

/-- The host's step that pulses the sensor's reset line. -/
theorem witness_OnlyOperationsChangeRegisters :
    let s : State := { fresh usual with cmd := some 0x32, activity := some (.convert 2 3 .pulse) }
    s.port = none ∧ step s = .next { s with activity := some (.convert 2 3 .tx), trace := [.rstPulse] } :=
  ⟨rfl, rfl⟩

theorem witness_ConfigurationIsFixed : step (fresh usual) = .next (fresh usual) := rfl

theorem witness_LaunchHasOneHost : usual.Legal ∧ ([[]] : List (List Line)).length = 1 ∧
    ([] : List (List Line)).length ≠ 1 ∧ ([[], []] : List (List Line)).length ≠ 1 := by decide

/-- A state whose registers are all valid, at the ends of what the invariant allows. -/
theorem witness_StepKeepsBlockInv :
    let s : State := { fresh (instanceOf 2 1 (-1)) with
      cmd := some 0x72, tmo := some 1, low := some 0, high := some 0, res := some 0xFFFEFFFF
      port := some (.opw 0x60000000000000) }
    BlockInv s ∧ step s = .next { s with port := none, res := some 0, low := none, high := none } := by
  refine ⟨⟨by decide, ?_, ?_, ?_⟩, rfl⟩
  · intro c h; injection h with h; subst h; decide
  · intro t h; injection h with h; subst h; decide
  · intro v h; injection h with h; subst h; decide

/-- Inside `READHP`, with the second load's word on the port. -/
theorem witness_DriverCallsNeverStop : usual.Legal ∧
    HostInv { fresh usual with
      low := some 5
      port := some (encode (.ldh 0 7))
      program := [.call .begin]
      activity := some (.readHp 1 0 (.high (.getting (.ret 0 7)))) } := by
  refine ⟨by decide, by decide, ?_, .inl ⟨rfl, trivial⟩, rfl⟩
  intro l h
  exact ⟨.begin, by simpa using h⟩

/-- After a polled wait, with the ready line wired. -/
theorem witness_StepKeepsWaitInv :
    let s : State := { fresh usual with
      trace := [.poll 501]
      issued := [.enc 1 0, .tmo 0 0]
      activity := some (.begin (.reading (.report .ready))) }
    WaitInv s ∧ ∃ t, step s = .next t := by
  refine ⟨⟨by decide, by decide, fun _ _ _ => rfl⟩, _, rfl⟩

theorem witness_StepKeepsRetInv :
    let s : State := { fresh usual with ret := some { status := some .timeout, value := none } }
    RetInv s ∧ step s = .next s := by
  refine ⟨?_, rfl⟩
  intro r h code _ _
  injection h with h
  subst h
  rfl

theorem witness_TransmitsOnlyValidCommand :
    let s : State := { fresh usual with cmd := some 0x32, activity := some (.convert 2 3 .tx), trace := [.sel] }
    step s = .next { s with activity := some (.convert 2 3 .desel), trace := [.sel, .tx 0x32] } ∧
      ([.sel, .tx 0x32] : List Event) = s.trace ++ [.tx 0x32] := ⟨rfl, rfl⟩

/-- Two states that differ in every register; one step of the run. -/
theorem witness_StaleRegistersAreInvisible :
    let s : State := { fresh usual with program := [.call (.readHp 1 0)] }
    let s' : State := { s with
      st := .timeout, cmd := some 1, tmo := some 2, low := some 3, high := some 4, res := some 5 }
    SameHost s s' ∧ s.ReadyFor (.readHp 1 0) [] ∧ ∃ t, Host.Core.run Sys2Proof.core 1 s = .next t :=
  ⟨⟨rfl, rfl, rfl, rfl, rfl, rfl, rfl, rfl⟩, ⟨rfl, rfl, rfl⟩, _, rfl⟩

/-- A state ready to run a call, with the environment's values listed. -/
def readyFor (c : Config) (call : Call) (waits : List WaitOutcome) (bytes : List Byte) : State :=
  { fresh c with program := [.call call], draws := { bytes := bytes, waits := waits, count := 0 } }

/-- Nothing left to draw. -/
def spent : Draws := { bytes := [], waits := [], count := 0 }

/-- The three clauses: one past the last axis, one past the last period, the last of both. -/
theorem witness_ConvertRuns :
    (readyFor usual (.convert 4 8) [] []).ReadyFor (.convert 4 8) [] ∧ usual.Legal ∧
    ¬ axisValid usual 4 ∧ (axisValid usual 1 ∧ 7 < (8 : Byte).toNat) ∧
    (axisValid usual 3 ∧ (7 : Byte).toNat ≤ 7 ∧
      (0x73 : Byte).toNat = 16 * (7 : Byte).toNat + ((3 : Byte).toNat - usual.axisBase + 1)) :=
  ⟨⟨rfl, rfl, rfl⟩, by decide, by decide, by decide, by decide⟩

theorem witness_GetResultRuns :
    (readyFor usual (.getResult .high) [] [0x12, 0x34]).ReadyFor (.getResult .high) [] ∧
    (readyFor usual (.getResult .high) [] [0x12, 0x34]).Supplies [] [0x12, 0x34] spent ∧ usual.Legal :=
  ⟨⟨rfl, rfl, rfl⟩, ⟨rfl, rfl, rfl⟩, by decide⟩

/-- The ready line wired, and not wired. -/
theorem witness_ReadSucceeds :
    let s := readyFor usual (.read .low 2 3 0) [.ready] [0x12, 0x34]
    let u := readyFor { usual with readyWired := false } (.read .low 2 3 0) [] [0x12, 0x34]
    s.cfg.Legal ∧ u.cfg.Legal ∧ axisValid s.cfg 2 ∧ (3 : Byte).toNat ≤ 7 ∧
    s.ReadyFor (.read .low 2 3 0) [] ∧ u.ReadyFor (.read .low 2 3 0) [] ∧
    s.Supplies [.ready] [0x12, 0x34] spent ∧ u.Supplies [.ready] [0x12, 0x34] spent ∧
    effectiveTimeout 3 0 = some 4001 :=
  ⟨by decide, by decide, by decide, by decide, ⟨rfl, rfl, rfl⟩, ⟨rfl, rfl, rfl⟩, ⟨rfl, rfl, rfl⟩, ⟨rfl, rfl, rfl⟩,
    by decide⟩

theorem witness_ReadReturnsErrors :
    let s := readyFor usual (.read .high 2 3 1000) [.expired] []
    s.cfg.Legal ∧ s.ReadyFor (.read .high 2 3 1000) [] ∧ ¬ axisValid usual 0 ∧
    (axisValid usual 3 ∧ 7 < (8 : Byte).toNat) ∧
    (axisValid s.cfg 2 ∧ (3 : Byte).toNat ≤ 7 ∧ s.cfg.readyWired = true ∧ s.Supplies [.expired] [] spent ∧
      effectiveTimeout 3 1000 = some 1000) :=
  ⟨by decide, ⟨rfl, rfl, rfl⟩, by decide, by decide, by decide, by decide, rfl, ⟨rfl, rfl, rfl⟩, by decide⟩

theorem witness_ReadHpSucceeds :
    let s := readyFor usual (.readHp 1 0) [.ready, .ready] [0xBF, 0x8C, 0x00, 0x07]
    s.cfg.Legal ∧ axisValid s.cfg 1 ∧ s.ReadyFor (.readHp 1 0) [] ∧
    s.Supplies [.ready, .ready] [0xBF, 0x8C, 0x00, 0x07] spent ∧
    (35501 : Word32) = (if (0 : Word32) = 0 then 35501 else 0) ∧
    (70000 : Word32) = (if (70000 : Word32) = 0 then 60001 else 70000) :=
  ⟨by decide, by decide, ⟨rfl, rfl, rfl⟩, ⟨rfl, rfl, rfl⟩, by decide, by decide⟩

theorem witness_ReadHpReturnsErrors :
    let s := readyFor usual (.readHp 1 0) [.expired] []
    let u := readyFor usual (.readHp 1 0) [.ready, .expired] [0xBF, 0x8C]
    s.cfg.Legal ∧ ¬ axisValid s.cfg 4 ∧ axisValid s.cfg 1 ∧ s.cfg.readyWired = true ∧
    s.ReadyFor (.readHp 1 0) [] ∧ u.ReadyFor (.readHp 1 0) [] ∧ s.Supplies [.expired] [] spent ∧
    u.Supplies [.ready, .expired] [0xBF, 0x8C] spent :=
  ⟨by decide, by decide, by decide, rfl, ⟨rfl, rfl, rfl⟩, ⟨rfl, rfl, rfl⟩, ⟨rfl, rfl, rfl⟩, ⟨rfl, rfl, rfl⟩⟩

theorem witness_BeginRuns :
    let s := readyFor usual .begin [.ready] [0xFF, 0xFE]
    let u := readyFor usual .begin [.expired] []
    s.cfg.Legal ∧ s.ReadyFor .begin [] ∧ s.Supplies [.ready] [0xFF, 0xFE] spent ∧ u.ReadyFor .begin [] ∧
    u.cfg.readyWired = true ∧ u.Supplies [.expired] [] spent :=
  ⟨by decide, ⟨rfl, rfl, rfl⟩, ⟨rfl, rfl, rfl⟩, ⟨rfl, rfl, rfl⟩, rfl, ⟨rfl, rfl, rfl⟩⟩

/-- The three cases: not wired, wired and seen in time, wired and expired. -/
theorem witness_BeginBoots :
    launch usual [[.call .begin]] = .next { fresh usual with program := [.call .begin] } ∧ usual.Legal ∧
    ({ usual with readyWired := false } : Config).Legal ∧ ({ usual with readyWired := false } : Config).readyWired = false ∧
    ([.ready] : List WaitOutcome).head? = some .ready ∧ ([.expired] : List WaitOutcome).head? = some .expired ∧
    usual.readyWired = true :=
  ⟨rfl, by decide, by decide, rfl, rfl, rfl, rfl⟩

/-- The state right after a `BEGIN` that returned `NoError`, with a `READHP` to come. -/
theorem witness_SequencesAfterBegin :
    let s : State := { fresh usual with
      cmd := some 0x01, tmo := some 501, low := some 7
      program := [.call (.readHp 1 0)]
      ret := some { status := some .noError, value := none }
      trace := beginTrace true ++ readTrace true 0x01 501 0x00 0x07 }
    s.cfg.Legal ∧ AfterBegin s ∧ s.ReadyFor (.readHp 1 0) [] :=
  ⟨by decide, ⟨_, 0, ⟨rfl, rfl, rfl, _, rfl⟩, rfl⟩, rfl, rfl, rfl⟩

end Sys2Proof.Tests
end

section
/-!
PROOF. The statement of spec/00_scope.md. The codes of the statuses are a bijection because
`Status.ofCode` inverts `Status.code` on both sides.
-/
namespace Sys2Proof.Proofs
open Sys2Proof.Machine Sys2Proof.Laws

/-- A status has a code exactly when it is the status that code names (R10, R21). -/
theorem code_eq_iff_eq_ofCode {e : Status} {c : BitVec 2} : e.code = c ↔ e = Status.ofCode c := by
  constructor
  · rintro rfl
    exact (ofCode_code e).symm
  · rintro rfl
    exact code_ofCode c

/-- Settles O2: the four codes are `Status.code`'s own equations; a code's one status is `Status.ofCode` of it. -/
theorem statusCodes : Obligations.StatusCodes := by
  have exactlyOne (c : BitVec 2) : ∃ e : Status, e.code = c ∧ ∀ e' : Status, e'.code = c → e' = e :=
    ⟨Status.ofCode c, code_ofCode c, fun _ => code_eq_iff_eq_ofCode.mp⟩
  exact ⟨rfl, rfl, rfl, rfl, exactlyOne⟩

end Sys2Proof.Proofs
end

section
/-!
PROOF. The register contents of spec/10_state.md: what `ENC`, `TMO` and `FUSE` store, and the invariant over them.
-/
namespace Sys2Proof.Proofs
open Sys2Proof.Machine Sys2Proof.Laws

/-! ### What a step can be -/

/-- A step that gives a next state ran the decoded word of the port, or was the host's (R51). -/
theorem step_next {s t : State} (h : step s = .next t) :
    (∃ w i, s.port = some w ∧ decode w = .ok i ∧ exec i { s with port := none } = .next t) ∨
      (s.port = none ∧ hostStep s = .next t) := by
  unfold step at h
  split at h
  case h_1 w hw =>
    unfold runWord at h
    split at h
    case h_1 i hi => exact .inl ⟨w, i, hw, hi, h⟩
    case h_2 => cases h
  case h_2 hp => exact .inr ⟨hp, h⟩

/-! ### The values stored -/

/-- The axis field of a valid axis is 1 to `AXIS_COUNT` (R63, R68). -/
theorem axisIndexLegal_of_axisValid {c : Config} {axis : Byte} (hc : c.Legal) (ha : axisValid c axis) :
    axisIndexLegal c.axisCount (axisIndex c axis) := by
  obtain ⟨hcount, -, -⟩ := hc
  obtain ⟨hlo, hhi⟩ := ha
  have hval : (axisIndex c axis).toNat = axis.toNat - c.axisBase + 1 := by
    rw [axisIndex, BitVec.toNat_ofNat, Nat.mod_eq_of_lt (by omega)]
  rw [axisIndexLegal, hval]
  omega

/-- The byte a successful `ENC` makes is in the legal set (R62, R63). -/
theorem classifyCommand_commandByte {c : Config} {axis period : Byte} (hc : c.Legal) (ha : axisValid c axis)
    (hp : periodValid period) : classifyCommand c.axisCount (commandByte c axis period) ≠ .invalid := by
  have hcode : (period.setWidth 4).toNat ≤ 7 := by
    rw [BitVec.toNat_setWidth]
    exact (Nat.mod_le _ _).trans hp
  rw [classifyCommand, commandByte, cmdPeriod_packCmd, cmdAxisIndex_packCmd,
    if_pos ⟨hcode, axisIndexLegal_of_axisValid hc ha⟩]
  exact nofun

/-- The correction of an odd `HIGH` is -1, 0 or 1 (R104). -/
theorem mod2_bounds {c : Config} (hc : c.Legal) (h : Int) : -1 ≤ mod2 c h ∧ mod2 c h ≤ 1 := by
  obtain ⟨-, -, hneg⟩ := hc
  unfold mod2
  split
  · omega
  · split <;> omega

/-- The fused value of two 16-bit samples lies in -65537 to 65535 (R103). -/
theorem fuseValue_bounds {c : Config} (hc : c.Legal) (l h : Half) :
    -65537 ≤ fuseValue c l.toInt h.toInt ∧ fuseValue c l.toInt h.toInt ≤ 65535 := by
  have hl := BitVec.le_toInt l
  have hl' := BitVec.toInt_lt (x := l)
  have hh := BitVec.le_toInt h
  have hh' := BitVec.toInt_lt (x := h)
  have hm := mod2_bounds hc h.toInt
  unfold fuseValue
  split <;> omega

/-- The fused value is stored without wrap (R103). -/
theorem toInt_ofInt_fuseValue {c : Config} (hc : c.Legal) (l h : Half) :
    (BitVec.ofInt 32 (fuseValue c l.toInt h.toInt)).toInt = fuseValue c l.toInt h.toInt := by
  obtain ⟨hlo, hhi⟩ := fuseValue_bounds hc l h
  exact BitVec.toInt_ofInt_eq_self (by decide) (by omega) (by omega)

/-! ### The invariant -/

/-- The invariant speaks of the configuration and the registers alone. -/
theorem blockInv_of_sameBlock {s t : State} (h : SameBlock s t) (hs : BlockInv s) : BlockInv t where
  cfg := by rw [h.cfg]; exact hs.cfg
  cmd := by rw [h.cfg, h.cmd]; exact hs.cmd
  tmo := by rw [h.tmo]; exact hs.tmo
  res := by rw [h.res]; exact hs.res

/-- Every operation stores only what the rules promise (R23, R26, R62, R63). -/
theorem exec_blockInv {i : Instr} {s t : State} (hs : BlockInv s) (h : exec i s = .next t) : BlockInv t := by
  cases i with
  | enc axis period =>
    obtain ⟨hc, ⟨-, rfl⟩ | ⟨-, -, rfl⟩ | ⟨ha, hp, rfl⟩⟩ := execEnc_next h
    · exact { hs with cmd := nofun }
    · exact { hs with cmd := nofun }
    · refine { hs with cmd := ?_ }
      rintro _ ⟨⟩
      exact classifyCommand_commandByte hc ha hp
  | tmo period timeout =>
    obtain ⟨-, ⟨u, hu, rfl⟩ | ⟨-, rfl⟩⟩ := execTmo_next h
    · refine { hs with tmo := ?_ }
      rintro _ ⟨⟩
      exact effectiveTimeout_ne_zero hu
    · exact { hs with tmo := nofun }
  | waitr x => obtain ⟨-, rfl⟩ := execWaitr_next h; exact { hs with }
  | ldl b0 b1 => obtain ⟨-, rfl⟩ := execLdl_next h; exact { hs with }
  | ldh b0 b1 => obtain ⟨-, rfl⟩ := execLdh_next h; exact { hs with }
  | fuse =>
    obtain ⟨hc, l, k, -, -, rfl⟩ := execFuse_next h
    refine { hs with res := ?_ }
    rintro _ ⟨⟩
    rw [toInt_ofInt_fuseValue hc]
    exact fuseValue_bounds hc l k
  | _ => exact absurd h (sensorOnly_ne_next (s := s))

/-- Settles O32: a step taken from the port is an operation, which stores only promised values; a step of the host
leaves the block as it was. -/
theorem stepKeepsBlockInv : Obligations.StepKeepsBlockInv := by
  intro s t hs h
  obtain ⟨w, i, -, -, he⟩ | ⟨-, hh⟩ := step_next h
  · exact exec_blockInv (s := { s with port := none }) { hs with } he
  · exact blockInv_of_sameBlock (hostStep_sameBlock hh) hs

end Sys2Proof.Proofs
end

section
/-!
PROOF. The access matrix of spec/10_state.md R27: what an operation writes and what it reads. That no step writes
the configuration (R30) follows.
-/
namespace Sys2Proof.Proofs
open Sys2Proof.Machine Sys2Proof.Laws

variable {s s' t : State}

/-! ### What an operation leaves alone -/

/-- A completed operation changes no register but those marked `w` in its row, and nothing outside the registers
(R27). -/
theorem exec_frame {i : Instr} (h : exec i s = .next t) :
    SameHost s t ∧ ∀ r, writes i r = false → State.Agree r s t := by
  cases i with
  | enc axis period =>
    obtain ⟨-, ⟨-, rfl⟩ | ⟨-, -, rfl⟩ | ⟨-, -, rfl⟩⟩ := execEnc_next h <;>
      exact ⟨by constructor <;> rfl, fun r hr => by cases r <;> trivial⟩
  | tmo period timeout =>
    obtain ⟨-, ⟨u, -, rfl⟩ | ⟨-, rfl⟩⟩ := execTmo_next h <;>
      exact ⟨by constructor <;> rfl, fun r hr => by cases r <;> trivial⟩
  | waitr x =>
    obtain ⟨-, rfl⟩ := execWaitr_next h
    exact ⟨by constructor <;> rfl, fun r hr => by cases r <;> trivial⟩
  | ldl b0 b1 =>
    obtain ⟨-, rfl⟩ := execLdl_next h
    exact ⟨by constructor <;> rfl, fun r hr => by cases r <;> trivial⟩
  | ldh b0 b1 =>
    obtain ⟨-, rfl⟩ := execLdh_next h
    exact ⟨by constructor <;> rfl, fun r hr => by cases r <;> trivial⟩
  | fuse =>
    obtain ⟨-, l, k, -, -, rfl⟩ := execFuse_next h
    exact ⟨by constructor <;> rfl, fun r hr => by cases r <;> trivial⟩
  | _ => exact absurd h (sensorOnly_ne_next (s := s))

/-! ### What an operation depends on

In a state with the same configuration, and for `FUSE` the same samples, an operation completes too and stores the
same values. -/

theorem execEnc_congr {axis period : Byte} (hcfg : s'.cfg = s.cfg) (h : execEnc axis period s = .next t) :
    execEnc axis period s' = .next { s' with st := t.st, cmd := t.cmd } := by
  obtain ⟨hc, ⟨ha, rfl⟩ | ⟨ha, hp, rfl⟩ | ⟨ha, hp, rfl⟩⟩ := execEnc_next h <;>
    rw [execEnc, hcfg, requireConfig_of_legal hc]
  · rw [if_pos ha, ← hcfg]; rfl
  · rw [if_neg (not_not.2 ha), if_pos hp, ← hcfg]; rfl
  · rw [if_neg (not_not.2 ha), if_neg (not_not.2 hp), ← hcfg]; rfl

theorem execTmo_congr {period : Byte} {timeout : Word32} (hcfg : s'.cfg = s.cfg)
    (h : execTmo period timeout s = .next t) :
    execTmo period timeout s' = .next { s' with st := t.st, tmo := t.tmo } := by
  obtain ⟨hc, ⟨u, hu, rfl⟩ | ⟨hu, rfl⟩⟩ := execTmo_next h <;>
    (rw [execTmo, hcfg, requireConfig_of_legal hc, hu, ← hcfg]; rfl)

theorem execWaitr_congr {x : Bool} (hcfg : s'.cfg = s.cfg) (h : execWaitr x s = .next t) :
    execWaitr x s' = .next { s' with st := t.st } := by
  obtain ⟨hc, rfl⟩ := execWaitr_next h
  rw [execWaitr, hcfg, requireConfig_of_legal hc, ← hcfg]
  cases x <;> rfl

theorem execLdl_congr {b0 b1 : Byte} (hcfg : s'.cfg = s.cfg) (h : execLdl b0 b1 s = .next t) :
    execLdl b0 b1 s' = .next { s' with low := t.low } := by
  obtain ⟨hc, rfl⟩ := execLdl_next h
  rw [execLdl, hcfg, requireConfig_of_legal hc]

theorem execLdh_congr {b0 b1 : Byte} (hcfg : s'.cfg = s.cfg) (h : execLdh b0 b1 s = .next t) :
    execLdh b0 b1 s' = .next { s' with high := t.high } := by
  obtain ⟨hc, rfl⟩ := execLdh_next h
  rw [execLdh, hcfg, requireConfig_of_legal hc]

theorem execFuse_congr (hcfg : s'.cfg = s.cfg) (hlow : s'.low = s.low) (hhigh : s'.high = s.high)
    (h : execFuse s = .next t) :
    execFuse s' = .next { s' with res := t.res, low := t.low, high := t.high } := by
  obtain ⟨hc, l, k, hl, hk, rfl⟩ := execFuse_next h
  rw [execFuse, hcfg, requireConfig_of_legal hc, hlow, hl, hhigh, hk]

/-- From two states that agree outside the registers and on those marked `r`, an operation completes in both with
the same values in those marked `w` (R27). -/
theorem exec_congr {i : Instr} (hs : SameHost s s') (hr : ∀ r, reads i r = true → State.Agree r s s')
    (h : exec i s = .next t) :
    ∃ t', exec i s' = .next t' ∧ ∀ r, writes i r = true → State.Agree r t t' := by
  have hcfg := hs.cfg
  cases i with
  | enc axis period => exact ⟨_, execEnc_congr hcfg h, fun r hw => by cases r <;> trivial⟩
  | tmo period timeout => exact ⟨_, execTmo_congr hcfg h, fun r hw => by cases r <;> trivial⟩
  | waitr x => exact ⟨_, execWaitr_congr hcfg h, fun r hw => by cases r <;> trivial⟩
  | ldl b0 b1 => exact ⟨_, execLdl_congr hcfg h, fun r hw => by cases r <;> trivial⟩
  | ldh b0 b1 => exact ⟨_, execLdh_congr hcfg h, fun r hw => by cases r <;> trivial⟩
  | fuse => exact ⟨_, execFuse_congr hcfg (hr .low rfl) (hr .high rfl) h, fun r hw => by cases r <;> trivial⟩
  | _ => exact absurd h (sensorOnly_ne_next (s := s))

/-- Settles O23: the frame of each operation, and its dependence on the registers it reads. -/
theorem accessMatrix : Obligations.AccessMatrix :=
  ⟨fun _ _ _ => exec_frame, fun _ _ _ _ => exec_congr⟩

/-- Settles O29: the configuration stands outside the registers an operation writes, and in the block that the host
leaves alone. -/
theorem configurationIsFixed : Obligations.ConfigurationIsFixed := by
  intro s t h
  obtain ⟨w, i, -, -, he⟩ | ⟨-, hh⟩ := step_next h
  · exact (exec_frame he).1.cfg
  · exact (hostStep_sameBlock hh).cfg

end Sys2Proof.Proofs
end

section
/-!
PROOF. The fixed facts of spec/10_state.md: reset (R31), the host's register reads (R20) and the idle host (R28).
-/
namespace Sys2Proof.Proofs
open Sys2Proof.Machine Sys2Proof.Laws

/-- Settles O1: the fields of `State.afterReset` and of `Config.hardware`, as they are written. -/
theorem resetRegisters : Obligations.ResetRegisters :=
  ⟨fun _ => ⟨rfl, rfl, rfl, rfl, rfl, rfl, rfl⟩, rfl, rfl, rfl⟩

/-- A register whose valid bit is clear reads as none (R13, R20). -/
theorem readReg_of_invalid {s : State} {r : RegName} (h : s.validBit r = false) : s.readReg r = none := by
  rw [← Option.not_isSome_iff_eq_none, readReg_isSome, h]
  decide

/-- A number names a register exactly when it is at most 5 (R20). -/
theorem ofNumber_isSome (i : Nat) : (RegName.ofNumber i).isSome = true ↔ i ≤ 5 := by
  match i with
  | 0 | 1 | 2 | 3 | 4 | 5 => decide
  | n + 6 => exact ⟨nofun, fun h => by omega⟩

/-- Settles O4: a valid register's read is the number of its payload, an invalid one's is none by
`readReg_isSome`; the numbering is a table. -/
theorem registerReads : Obligations.RegisterReads := by
  refine ⟨fun s => ⟨rfl, ?_, ?_, ?_, ?_, ?_, fun _ => readReg_of_invalid⟩, rfl, rfl, rfl, rfl, rfl, rfl,
    ofNumber_number, ofNumber_isSome⟩
  all_goals
    intro v hv
    simp [State.readReg, hv]

/-- Settles O27: an idle host begins its next line, and there is none. -/
theorem idleHost : Obligations.IdleHost := by
  intro s hc hp ha hprog
  rw [step_of_idle hc hp ha, startNext_of_nil hprog]

/-- Settles O31: right after reset the configuration is legal, no register is valid, and the host has nothing to
do and has done nothing. -/
theorem invariantsAtReset : Obligations.InvariantsAtReset where
  left := { cfg := by decide, cmd := nofun, tmo := nofun, res := nofun }
  right.left := { cfg := by decide, program := nofun, activity := rfl }
  right.right.left := { trace := nofun, issued := nofun, activity := nofun }
  right.right.right := nofun

end Sys2Proof.Proofs
end

section
/-!
PROOF. Stale registers are invisible (spec/10_state.md R33). The idea is liveness: at each position of a sequence
only some registers are live, that is, read later before an operation writes them, and at the entry of a call none
is. Two runs that agree outside the registers and on the live ones stay so.
-/
namespace Sys2Proof.Proofs
open Sys2Proof.Machine Sys2Proof.Laws

/-! ### Agreement -/

theorem agree_trans {r : RegName} {s t u : State} (h : State.Agree r s t) (k : State.Agree r t u) :
    State.Agree r s u := by
  cases r <;> exact Eq.trans k h

theorem agree_symm {r : RegName} {s t : State} (h : State.Agree r s t) : State.Agree r t s := by
  cases r <;> exact Eq.symm h

theorem sameHost_trans {s t u : State} (h : SameHost s t) (k : SameHost t u) : SameHost s u :=
  ⟨k.1.trans h.1, k.2.trans h.2, k.3.trans h.3, k.4.trans h.4, k.5.trans h.5, k.6.trans h.6, k.7.trans h.7,
    k.8.trans h.8⟩

theorem sameHost_symm {s t : State} (h : SameHost s t) : SameHost t s :=
  ⟨h.1.symm, h.2.symm, h.3.symm, h.4.symm, h.5.symm, h.6.symm, h.7.symm, h.8.symm⟩

theorem agree_of_sameBlock {s t : State} (h : SameBlock s t) (r : RegName) : State.Agree r s t := by
  cases r
  exacts [h.st, h.cmd, h.tmo, h.low, h.high, h.res]

/-! ### The word of an issued operation -/

/-- An instruction's word decodes to it (R64 to R67, R61). -/
theorem decode_encode (i : Instr) : decode (encode i) = .ok i := by
  cases i with
  | enc axis period => simp [encode, decode, decodeOpw, decodeRow, encRow_selects]
  | tmo period timeout => simp [encode, decode, decodeOpw, decodeRow, tmoRow_selects]
  | waitr x => cases x <;> simp [encode, decode, decodeOpw, decodeRow, waitrRow_selects, opwX_eq, waitrOperand]
  | ldl b0 b1 => simp [encode, decode, decodeOpw, decodeRow, ldlRow_selects]
  | ldh b0 b1 => simp [encode, decode, decodeOpw, decodeRow, ldhRow_selects]
  | fuse => simp [encode, decode, decodeOpw, decodeRow, fuseRow_selects]
  | _ => simp [encode, decode, decodeCmd]

/-! ### Live registers -/

/-- The register of a destination letter (R112). -/
def destReg : Dest → RegName
  | .low => .low
  | .high => .high

/-- The live registers at a position of `CONVERT`: `ST` until the test, `CMD` until it is sent (R111). -/
def convertLive : ConvertPoint → List RegName
  | .test => [.st, .cmd]
  | .sel | .pulse | .tx => [.cmd]
  | .enc | .desel | .ret => []

/-- The live registers at a position of `GETRESULT`: its destination, once loaded (R112). -/
def getLive (d : Dest) : GetPoint → List RegName
  | .ret _ _ => [destReg d]
  | .sel | .rx0 | .rx1 _ | .desel _ _ | .load _ _ => []

/-- The live registers at a position of `READ` (R113). -/
def readLive (d : Dest) : ReadPoint → List RegName
  | .converting p => convertLive p
  | .test => [.st, .tmo]
  | .latch => [.tmo]
  | .getting p => getLive d p
  | .tmo | .wait _ | .report _ | .judge _ => []

/-- The live registers at a position of `READHP`: the low sample through the second sub-read (R114). -/
def readHpLive : ReadHpPoint → List RegName
  | .low p => readLive .low p
  | .high p => .low :: readLive .high p
  | .fuse => [.low, .high]
  | .ret => [.res]

/-- The live registers at a position of `BEGIN` (R115). -/
def beginLive : BeginPoint → List RegName
  | .reading p => readLive .low p
  | .dirSelect | .dirReset | .dirReady | .desel | .rstIdle | .busCfg => []

/-- The live registers at the host's position. -/
def activityLive : Activity → List RegName
  | .convert _ _ p => convertLive p
  | .getResult d p => getLive d p
  | .read d _ _ _ p => readLive d p
  | .readHp _ _ p => readHpLive p
  | .begin p => beginLive p

/-- What a `READ` leaves live for its caller: its destination when it succeeded (R113). -/
def readOut (d : Dest) (r : Ret) : List RegName := if r.status = some .noError then [destReg d] else []

/-- A register is needed now if the operation on the port reads it, or if it is live after that operation and
not written by it; with the port empty, if it is live. -/
def Needed (port : Option PortWord) (live : List RegName) (r : RegName) : Prop :=
  match port with
  | none => r ∈ live
  | some w => ∀ i, decode w = .ok i → reads i r = true ∨ (r ∈ live ∧ writes i r = false)

/-- What is needed of registers in front of a list is needed or in front. -/
theorem needed_cons {port : Option PortWord} {live : List RegName} {q r : RegName}
    (h : Needed port (q :: live) r) : r = q ∨ Needed port live r := by
  cases port with
  | none => exact List.mem_cons.1 h
  | some w =>
    refine or_iff_not_imp_left.2 fun hne i hi => ?_
    obtain hr | ⟨hmem, hw⟩ := h i hi
    · exact .inl hr
    · exact .inr ⟨(List.mem_cons.1 hmem).resolve_left hne, hw⟩

/-- No register is live where a call begins. -/
theorem activityLive_enter (c : Call) : activityLive (enter c) = [] := by
  cases c <;> rfl

/-! ### A sequence within another

`READ` runs `CONVERT` and `GETRESULT`, `READHP` and `BEGIN` run `READ` (R117), and the host runs all five: each takes
the inner sequence's positions into its own, and goes on by its own rule when the inner sequence returns. -/

/-- A step of an inner sequence as the outer one takes it. -/
def nest {π ρ π' ρ' : Type} (place : π → π') (next : ρ → State → Progress π' ρ') : Progress π ρ → Progress π' ρ'
  | .goto p s => .goto (place p) s
  | .done x s => next x s
  | .fault f => .fault f

section Nesting
variable (d : Dest) (axis period : Byte) (timeout : Word32) (s : State)

theorem stepRead_converting (p : ConvertPoint) : stepRead d axis period timeout (.converting p) s =
    nest .converting
      (fun code t => if code ≠ .noError then .done { status := some code, value := none } t else .goto .tmo t)
      (stepConvert axis period p s) := by
  rw [stepRead]
  cases stepConvert axis period p s <;> rfl

theorem stepRead_getting (p : GetPoint) : stepRead d axis period timeout (.getting p) s =
    nest .getting (fun v t => .done { status := some .noError, value := some v } t) (stepGet d p s) := by
  rw [stepRead]
  cases stepGet d p s <;> rfl

theorem stepReadHp_low (p : ReadPoint) : stepReadHp axis timeout (.low p) s =
    nest .low
      (fun r t => if r.status ≠ some .noError then .done { status := r.status, value := none } t
        else .goto (.high (.converting .enc)) t)
      (stepRead .low axis 6 timeout p s) := by
  rw [stepReadHp]
  cases stepRead .low axis 6 timeout p s <;> rfl

theorem stepReadHp_high (p : ReadPoint) : stepReadHp axis timeout (.high p) s =
    nest .high
      (fun r t => if r.status ≠ some .noError then .done { status := r.status, value := none } t
        else .goto .fuse t)
      (stepRead .high axis 7 timeout p s) := by
  rw [stepReadHp]
  cases stepRead .high axis 7 timeout p s <;> rfl

theorem stepBegin_reading (p : ReadPoint) : stepBegin (.reading p) s =
    nest .reading (fun r t => .done { status := r.status, value := none } t)
      (stepRead .low (firstAxis s.cfg) 0 0 p s) := by
  rw [stepBegin]
  cases stepRead .low (firstAxis s.cfg) 0 0 p s <;> rfl

theorem stepActivity_convert (p : ConvertPoint) : stepActivity (.convert axis period p) s =
    nest (.convert axis period) (fun code t => .done { status := some code, value := none } t)
      (stepConvert axis period p s) := by
  rw [stepActivity]
  cases stepConvert axis period p s <;> rfl

theorem stepActivity_getResult (p : GetPoint) : stepActivity (.getResult d p) s =
    nest (.getResult d) (fun v t => .done { status := none, value := some v } t) (stepGet d p s) := by
  rw [stepActivity]
  cases stepGet d p s <;> rfl

theorem stepActivity_read (p : ReadPoint) : stepActivity (.read d axis period timeout p) s =
    nest (.read d axis period timeout) .done (stepRead d axis period timeout p s) := by
  rw [stepActivity]
  cases stepRead d axis period timeout p s <;> rfl

theorem stepActivity_readHp (p : ReadHpPoint) : stepActivity (.readHp axis timeout p) s =
    nest (.readHp axis timeout) .done (stepReadHp axis timeout p s) := by
  rw [stepActivity]
  cases stepReadHp axis timeout p s <;> rfl

theorem stepActivity_begin (p : BeginPoint) : stepActivity (.begin p) s =
    nest .begin .done (stepBegin p s) := by
  rw [stepActivity]
  cases stepBegin p s <;> rfl

end Nesting

/-! ### A line of a sequence makes no register live

What is needed after the line was live before it. -/

/-- After a line at which `now` is live: every register needed was in `now`, where a return leaves `out` live for
the caller. The line takes no line of the program, and a return changes nothing. -/
def Flows {π ρ : Type} (s : State) (now : List RegName) (live : π → List RegName) (out : ρ → List RegName) :
    Progress π ρ → Prop
  | .goto p t => t.program = s.program ∧ ∀ r, Needed t.port (live p) r → r ∈ now
  | .done x t => t = s ∧ ∀ r ∈ out x, r ∈ now
  | .fault _ => True

section Flows
variable {π ρ : Type} {s t : State} {now : List RegName} {live : π → List RegName} {out : ρ → List RegName} {p : π}

/-- A line that issues `i` flows if `i` reads what was live, and leaves or writes what becomes live. -/
theorem flows_issue (i : Instr) (hr : ∀ r, reads i r = true → r ∈ now)
    (hw : ∀ r ∈ live p, writes i r = true ∨ r ∈ now) : Flows s now live out (.goto p (s.issue i)) := by
  refine ⟨rfl, fun r hneed => ?_⟩
  obtain hread | ⟨hmem, hkeep⟩ := hneed i (decode_encode i)
  · exact hr r hread
  · exact (hw r hmem).resolve_left (by simp [hkeep])

/-- A line that leaves the port empty flows if what is live next was live. -/
theorem flows_goto (hprog : t.program = s.program) (hport : t.port = none) (h : live p ⊆ now) :
    Flows s now live out (.goto p t) := by
  refine ⟨hprog, fun r hr => h ?_⟩
  rw [hport] at hr
  exact hr

/-- A step of an inner sequence flows for the outer one, if the outer one adds to what is live only what was live
already, and flows where the inner one returns. -/
theorem flows_nest {π' ρ' : Type} {place : π → π'} {next : ρ → State → Progress π' ρ'} {now' : List RegName}
    {live' : π' → List RegName} {out' : ρ' → List RegName} {x : Progress π ρ} (hx : Flows s now live out x)
    (hlive : ∀ p port r, Needed port (live' (place p)) r → r ∈ now' ∨ Needed port (live p) r) (hnow : now ⊆ now')
    (hnext : ∀ y, out y ⊆ now → Flows s now' live' out' (next y s)) :
    Flows s now' live' out' (nest place next x) := by
  cases x with
  | goto p t => exact ⟨hx.1, fun r hr => (hlive p t.port r hr).elim id fun h => hnow (hx.2 r h)⟩
  | done y t =>
    obtain ⟨rfl, hout⟩ := hx
    exact hnext y fun r => hout r
  | fault f => trivial

/-- The same where the outer sequence makes nothing live of its own. -/
theorem flows_nest_same {π' ρ' : Type} {place : π → π'} {next : ρ → State → Progress π' ρ'}
    {live' : π' → List RegName} {out' : ρ' → List RegName} {x : Progress π ρ} (hx : Flows s now live out x)
    (hlive : ∀ p, live' (place p) = live p) (hnext : ∀ y, out y ⊆ now → Flows s now live' out' (next y s)) :
    Flows s now live' out' (nest place next x) :=
  flows_nest hx (fun p _ _ h => .inr (hlive p ▸ h)) (List.Subset.refl _) hnext

end Flows

section Lines
variable {s : State} (hport : s.port = none)
include hport

theorem stepConvert_flows (axis period : Byte) (p : ConvertPoint) :
    Flows s (convertLive p) convertLive (fun _ => []) (stepConvert axis period p s) := by
  cases p with
  | enc => exact flows_issue _ nofun (List.forall_mem_cons.2 ⟨.inl rfl, List.forall_mem_singleton.2 (.inl rfl)⟩)
  | test =>
    unfold stepConvert
    dsimp only
    split
    · exact ⟨rfl, nofun⟩
    · exact flows_goto rfl hport (by simp [convertLive])
  | tx =>
    unfold stepConvert
    dsimp only
    split
    · exact flows_goto rfl hport (List.nil_subset _)
    · trivial
  | ret => exact ⟨rfl, nofun⟩
  | sel | pulse | desel => exact flows_goto rfl hport (List.Subset.refl _)

theorem stepGet_flows (d : Dest) (p : GetPoint) :
    Flows s (getLive d p) (getLive d) (fun _ => [destReg d]) (stepGet d p s) := by
  cases p with
  | sel | desel => exact flows_goto rfl hport (List.nil_subset _)
  | rx0 | rx1 => exact flows_goto (by simp) (by simpa using hport) (List.nil_subset _)
  | load b0 b1 =>
    cases d <;> exact flows_issue _ nofun (List.forall_mem_singleton.2 (.inl rfl))
  | ret => exact ⟨rfl, fun _ => id⟩

theorem stepRead_flows (d : Dest) (axis period : Byte) (timeout : Word32) (p : ReadPoint) :
    Flows s (readLive d p) (readLive d) (readOut d) (stepRead d axis period timeout p s) := by
  cases p with
  | converting q =>
    rw [stepRead_converting]
    refine flows_nest_same (stepConvert_flows hport axis period q) (fun _ => rfl) fun code _ => ?_
    split
    case isTrue hne => exact ⟨rfl, by simp [readOut, hne]⟩
    case isFalse => exact flows_goto rfl hport (List.nil_subset _)
  | tmo => exact flows_issue _ nofun (List.forall_mem_cons.2 ⟨.inl rfl, List.forall_mem_singleton.2 (.inl rfl)⟩)
  | test =>
    unfold stepRead
    dsimp only
    split
    case isTrue hne => exact ⟨rfl, by simp [readOut, hne]⟩
    case isFalse => exact flows_goto rfl hport (by simp [readLive])
  | latch =>
    unfold stepRead
    dsimp only
    split
    · exact flows_goto rfl hport (List.nil_subset _)
    · trivial
  | wait t =>
    unfold stepRead
    dsimp only
    split
    · exact flows_goto (by simp) (by simpa using hport) (List.nil_subset _)
    · exact flows_goto rfl hport (List.nil_subset _)
  | report w => exact flows_issue _ nofun nofun
  | judge w =>
    cases w with
    | expired => exact ⟨rfl, nofun⟩
    | ready => exact flows_goto rfl hport (List.nil_subset _)
  | getting q =>
    rw [stepRead_getting]
    exact flows_nest_same (stepGet_flows hport d q) (fun _ => rfl) fun _ hout => ⟨rfl, fun _ => @hout _⟩

theorem stepReadHp_flows (axis : Byte) (timeout : Word32) (p : ReadHpPoint) :
    Flows s (readHpLive p) readHpLive (fun _ => []) (stepReadHp axis timeout p s) := by
  cases p with
  | low q =>
    rw [stepReadHp_low]
    refine flows_nest_same (stepRead_flows hport .low axis 6 timeout q) (fun _ => rfl) fun r hout => ?_
    split
    case isTrue => exact ⟨rfl, nofun⟩
    case isFalse hok =>
      rw [readOut, if_pos (not_not.1 hok)] at hout
      exact flows_goto rfl hport hout
  | high q =>
    rw [stepReadHp_high]
    refine flows_nest (stepRead_flows hport .high axis 7 timeout q) (fun q' port r hr => ?_)
      (List.subset_cons_self _ _) fun r hout => ?_
    · exact (needed_cons hr).imp_left fun h => List.mem_cons.2 (.inl h)
    · split
      case isTrue => exact ⟨rfl, nofun⟩
      case isFalse hok =>
        rw [readOut, if_pos (not_not.1 hok)] at hout
        exact flows_goto rfl hport (List.cons_subset_cons _ hout)
  | fuse =>
    refine flows_issue _ (fun r hread => ?_) (List.forall_mem_singleton.2 (.inl rfl))
    cases r with
    | low => exact List.mem_cons_self
    | high => exact List.mem_cons_of_mem _ List.mem_cons_self
    | _ => cases hread
  | ret =>
    unfold stepReadHp
    dsimp only
    split
    · exact ⟨rfl, nofun⟩
    · trivial

theorem stepBegin_flows (p : BeginPoint) :
    Flows s (beginLive p) beginLive (fun _ => []) (stepBegin p s) := by
  cases p with
  | dirReady =>
    unfold stepBegin
    dsimp only
    split <;> exact flows_goto rfl hport (List.nil_subset _)
  | reading q =>
    rw [stepBegin_reading]
    exact flows_nest_same (stepRead_flows hport .low _ 0 0 q) (fun _ => rfl) fun _ _ => ⟨rfl, nofun⟩
  | _ => exact flows_goto rfl hport (List.nil_subset _)

theorem stepActivity_flows (a : Activity) :
    Flows s (activityLive a) activityLive (fun _ => []) (stepActivity a s) := by
  cases a with
  | convert axis period p =>
    rw [stepActivity_convert]
    exact flows_nest_same (stepConvert_flows hport axis period p) (fun _ => rfl) fun _ _ => ⟨rfl, nofun⟩
  | getResult d p =>
    rw [stepActivity_getResult]
    exact flows_nest_same (stepGet_flows hport d p) (fun _ => rfl) fun _ _ => ⟨rfl, nofun⟩
  | read d axis period timeout p =>
    rw [stepActivity_read]
    exact flows_nest_same (stepRead_flows hport d axis period timeout p) (fun _ => rfl) fun _ _ => ⟨rfl, nofun⟩
  | readHp axis timeout p =>
    rw [stepActivity_readHp]
    exact flows_nest_same (stepReadHp_flows hport axis timeout p) (fun _ => rfl) fun _ _ => ⟨rfl, nofun⟩
  | begin p =>
    rw [stepActivity_begin]
    exact flows_nest_same (stepBegin_flows hport p) (fun _ => rfl) fun _ _ => ⟨rfl, nofun⟩

end Lines

/-! ### A line of a sequence with other registers

With the registers of another state in place of its own, a line does the same, if the two agree on what is live. -/

/-- `s` with the registers of `b`. -/
def withRegs (b s : State) : State :=
  { s with st := b.st, cmd := b.cmd, tmo := b.tmo, low := b.low, high := b.high, res := b.res }

/-- A step of a sequence with the registers of `b` in the state it leaves. -/
def regsAfter {π ρ : Type} (b : State) : Progress π ρ → Progress π ρ
  | .goto p s => .goto p (withRegs b s)
  | .done x s => .done x (withRegs b s)
  | .fault f => .fault f

theorem sameHost_withRegs (b s : State) : SameHost s (withRegs b s) := by
  constructor <;> rfl

theorem withRegs_of_sameHost {s s' : State} (h : SameHost s s') : withRegs s' s = s' := by
  obtain ⟨h1, h2, h3, h4, h5, h6, h7, h8⟩ := h
  cases s'
  simp_all [withRegs]

theorem agree_withRegs {r : RegName} {b s : State} : State.Agree r s (withRegs b s) ↔ State.Agree r s b := by
  cases r <;> rfl

theorem drawByte_withRegs (b s : State) :
    (withRegs b s).drawByte = (s.drawByte.1, withRegs b s.drawByte.2) := by
  unfold State.drawByte
  dsimp only [withRegs]
  split <;> rfl

theorem drawWait_withRegs (b s : State) :
    (withRegs b s).drawWait = (s.drawWait.1, withRegs b s.drawWait.2) := by
  unfold State.drawWait
  dsimp only [withRegs]
  split <;> rfl

theorem startNext_withRegs (b s : State) : startNext (withRegs b s) = withRegs b (startNext s) := by
  unfold startNext
  dsimp only [withRegs]
  split <;> rfl

theorem nest_regsAfter {π ρ π' ρ' : Type} {b : State} {place : π → π'} {next : ρ → State → Progress π' ρ'}
    {x : Progress π ρ} (hnext : ∀ y t, next y (withRegs b t) = regsAfter b (next y t)) :
    nest place next (regsAfter b x) = regsAfter b (nest place next x) := by
  cases x with
  | goto p t => rfl
  | done y t => exact hnext y t
  | fault f => rfl

section Regs
variable {b s : State}

theorem stepConvert_withRegs {axis period : Byte} {p : ConvertPoint}
    (h : ∀ r ∈ convertLive p, State.Agree r s b) :
    stepConvert axis period p (withRegs b s) = regsAfter b (stepConvert axis period p s) := by
  cases p with
  | test =>
    have hst : b.st = s.st := h .st List.mem_cons_self
    simp only [stepConvert, withRegs, hst]
    split <;> simp [regsAfter, withRegs, hst]
  | tx =>
    have hcmd : b.cmd = s.cmd := h .cmd List.mem_cons_self
    simp only [stepConvert, withRegs, hcmd]
    split <;> simp [regsAfter, withRegs, hcmd, State.emit]
  | enc | sel | pulse | desel | ret => rfl

theorem stepGet_withRegs {d : Dest} {p : GetPoint} :
    stepGet d p (withRegs b s) = regsAfter b (stepGet d p s) := by
  cases p with
  | rx0 | rx1 => simp only [stepGet, drawByte_withRegs]; rfl
  | sel | desel | load | ret => rfl

theorem stepRead_withRegs {d : Dest} {axis period : Byte} {timeout : Word32} {p : ReadPoint}
    (h : ∀ r ∈ readLive d p, State.Agree r s b) :
    stepRead d axis period timeout p (withRegs b s) = regsAfter b (stepRead d axis period timeout p s) := by
  cases p with
  | converting q =>
    rw [stepRead_converting, stepRead_converting, stepConvert_withRegs h]
    exact nest_regsAfter fun code t => by split <;> rfl
  | test =>
    have hst : b.st = s.st := h .st List.mem_cons_self
    simp only [stepRead, withRegs, hst]
    split <;> simp [regsAfter, withRegs, hst]
  | latch =>
    have htmo : b.tmo = s.tmo := h .tmo List.mem_cons_self
    simp only [stepRead, withRegs, htmo]
    split <;> simp [regsAfter, withRegs, htmo]
  | wait t =>
    simp only [stepRead, drawWait_withRegs, (sameHost_withRegs b s).cfg]
    split <;> rfl
  | judge w => cases w <;> rfl
  | getting q =>
    rw [stepRead_getting, stepRead_getting, stepGet_withRegs]
    exact nest_regsAfter fun _ _ => rfl
  | tmo | report => rfl

theorem stepReadHp_withRegs {axis : Byte} {timeout : Word32} {p : ReadHpPoint}
    (h : ∀ r ∈ readHpLive p, State.Agree r s b) :
    stepReadHp axis timeout p (withRegs b s) = regsAfter b (stepReadHp axis timeout p s) := by
  cases p with
  | low q =>
    rw [stepReadHp_low, stepReadHp_low, stepRead_withRegs h]
    exact nest_regsAfter fun r t => by split <;> rfl
  | high q =>
    rw [stepReadHp_high, stepReadHp_high, stepRead_withRegs fun r hr => h r (List.mem_cons_of_mem _ hr)]
    exact nest_regsAfter fun r t => by split <;> rfl
  | fuse => rfl
  | ret =>
    have hres : b.res = s.res := h .res List.mem_cons_self
    simp only [stepReadHp, withRegs, hres]
    split <;> simp [regsAfter, withRegs, hres]

theorem stepBegin_withRegs {p : BeginPoint} (h : ∀ r ∈ beginLive p, State.Agree r s b) :
    stepBegin p (withRegs b s) = regsAfter b (stepBegin p s) := by
  cases p with
  | dirReady =>
    simp only [stepBegin, (sameHost_withRegs b s).cfg]
    split <;> rfl
  | reading q =>
    rw [stepBegin_reading, stepBegin_reading, (sameHost_withRegs b s).cfg, stepRead_withRegs h]
    exact nest_regsAfter fun _ _ => rfl
  | dirSelect | dirReset | desel | rstIdle | busCfg => rfl

theorem stepActivity_withRegs {a : Activity} (h : ∀ r ∈ activityLive a, State.Agree r s b) :
    stepActivity a (withRegs b s) = regsAfter b (stepActivity a s) := by
  cases a with
  | convert axis period p =>
    rw [stepActivity_convert, stepActivity_convert, stepConvert_withRegs h]
    exact nest_regsAfter fun _ _ => rfl
  | getResult d p =>
    rw [stepActivity_getResult, stepActivity_getResult, stepGet_withRegs]
    exact nest_regsAfter fun _ _ => rfl
  | read d axis period timeout p =>
    rw [stepActivity_read, stepActivity_read, stepRead_withRegs h]
    exact nest_regsAfter fun _ _ => rfl
  | readHp axis timeout p =>
    rw [stepActivity_readHp, stepActivity_readHp, stepReadHp_withRegs h]
    exact nest_regsAfter fun _ _ => rfl
  | begin p =>
    rw [stepActivity_begin, stepActivity_begin, stepBegin_withRegs h]
    exact nest_regsAfter fun _ _ => rfl

end Regs

/-! ### Runs that agree on what is needed -/

/-- The live registers at the host's position; an idle host has none. -/
def hostLive : Option Activity → List RegName
  | none => []
  | some a => activityLive a

/-- Two states that agree outside the registers and on those needed, in a program of driver calls. -/
structure Alike (s s' : State) : Prop where
  host : SameHost s s'
  regs : ∀ r, Needed s.port (hostLive s.activity) r → State.Agree r s s'
  calls : ∀ l ∈ s.program, ∃ c, l = .call c

/-- An operation taken from the port in both states leaves them alike. -/
theorem exec_alike {s s' t : State} {w : PortWord} {i : Instr} (h : Alike s s') (hw : s.port = some w)
    (hi : decode w = .ok i) (he : exec i { s with port := none } = .next t) :
    ∃ t', exec i { s' with port := none } = .next t' ∧ Alike t t' := by
  have hneed (r : RegName) (hr : reads i r = true ∨ (r ∈ hostLive s.activity ∧ writes i r = false)) :
      State.Agree r s s' := by
    refine h.regs r ?_
    rw [hw]
    intro j hj
    cases hi.symm.trans hj
    exact hr
  have hhost : SameHost { s with port := none } { s' with port := none } := { h.host with port := rfl }
  obtain ⟨t', he', hwritten⟩ := exec_congr hhost (fun r hr => by cases r <;> exact hneed _ (.inl hr)) he
  obtain ⟨hst, hkept⟩ := exec_frame he
  obtain ⟨hst', hkept'⟩ := exec_frame he'
  refine ⟨t', he', sameHost_trans (sameHost_symm hst) (sameHost_trans hhost hst'), fun r hr => ?_, ?_⟩
  · rw [hst.port, hst.activity] at hr
    cases hwr : writes i r with
    | true => exact hwritten r hwr
    | false =>
      have hagree : State.Agree r { s with port := none } { s' with port := none } := by
        cases r <;> exact hneed _ (.inr ⟨hr, hwr⟩)
      exact agree_trans (agree_symm (hkept r hwr)) (agree_trans hagree (hkept' r hwr))
  · rw [hst.program]
    exact h.calls

/-- What a step of the host that gives a next state is: its next line begun, or a line of the sequence in progress. -/
theorem hostStep_eq_next {s t : State} : hostStep s = .next t ↔ s.cfg.Legal ∧
    ((s.activity = none ∧ t = startNext s) ∨
      (∃ a a' u, s.activity = some a ∧ stepActivity a s = .goto a' u ∧ t = { u with activity := some a' }) ∨
      ∃ a r u, s.activity = some a ∧ stepActivity a s = .done r u ∧
        t = { u with activity := none, ret := some r }) := by
  unfold hostStep
  rw [requireConfig_next]
  refine and_congr_right fun _ => ⟨fun h => ?_, ?_⟩
  · split at h
    case h_1 ha => cases h; exact .inl ⟨ha, rfl⟩
    case h_2 a ha =>
      split at h
      case h_1 a' u hu => cases h; exact .inr (.inl ⟨a, a', u, ha, hu, rfl⟩)
      case h_2 r u hu => cases h; exact .inr (.inr ⟨a, r, u, ha, hu, rfl⟩)
      case h_3 => cases h
  · rintro (⟨ha, rfl⟩ | ⟨a, a', u, ha, hu, rfl⟩ | ⟨a, r, u, ha, hu, rfl⟩) <;> simp only [ha]
    all_goals simp only [hu]

/-- A step of the host does the same with other registers that agree on what is live. -/
theorem hostStep_withRegs {b s t : State} (h : ∀ r ∈ hostLive s.activity, State.Agree r s b)
    (hstep : hostStep s = .next t) : hostStep (withRegs b s) = .next (withRegs b t) := by
  rw [hostStep_eq_next] at hstep ⊢
  obtain ⟨hc, ⟨ha, rfl⟩ | ⟨a, a', u, ha, hu, rfl⟩ | ⟨a, r, u, ha, hu, rfl⟩⟩ := hstep <;> refine ⟨hc, ?_⟩
  · exact .inl ⟨ha, (startNext_withRegs b s).symm⟩
  · rw [ha] at h
    exact .inr (.inl ⟨a, a', withRegs b u, ha, by rw [stepActivity_withRegs h, hu, regsAfter], rfl⟩)
  · rw [ha] at h
    exact .inr (.inr ⟨a, r, withRegs b u, ha, by rw [stepActivity_withRegs h, hu, regsAfter], rfl⟩)

/-- In a program of driver calls the next line makes no register needed, and leaves driver calls. -/
theorem startNext_flows {s : State} (hport : s.port = none) (ha : s.activity = none)
    (hcalls : ∀ l ∈ s.program, ∃ c, l = .call c) :
    (∀ r, ¬ Needed (startNext s).port (hostLive (startNext s).activity) r) ∧
      ∀ l ∈ (startNext s).program, ∃ c, l = .call c := by
  cases hprog : s.program with
  | nil =>
    rw [startNext_of_nil hprog, hport, ha]
    exact ⟨fun _ => List.not_mem_nil, hcalls⟩
  | cons l rest =>
    rw [hprog] at hcalls
    obtain ⟨c, rfl⟩ := hcalls l List.mem_cons_self
    rw [startNext_of_call hprog, hport, hostLive, activityLive_enter]
    exact ⟨fun _ => List.not_mem_nil, fun l hl => hcalls l (List.mem_cons_of_mem _ hl)⟩

/-- A step of the host makes no register needed that was not live, and leaves driver calls. -/
theorem hostStep_flows {s t : State} (hport : s.port = none) (hcalls : ∀ l ∈ s.program, ∃ c, l = .call c)
    (hstep : hostStep s = .next t) :
    (∀ r, Needed t.port (hostLive t.activity) r → r ∈ hostLive s.activity) ∧
      ∀ l ∈ t.program, ∃ c, l = .call c := by
  obtain ⟨-, ⟨ha, rfl⟩ | ⟨a, a', u, ha, hu, rfl⟩ | ⟨a, r, u, ha, hu, rfl⟩⟩ := hostStep_eq_next.1 hstep
  · obtain ⟨hnone, hrest⟩ := startNext_flows hport ha hcalls
    exact ⟨fun r hr => absurd hr (hnone r), hrest⟩
  · have hflow := stepActivity_flows hport a
    rw [hu] at hflow
    obtain ⟨hprog, hlive⟩ := hflow
    rw [ha]
    exact ⟨hlive, hprog ▸ hcalls⟩
  · have hflow := stepActivity_flows hport a
    rw [hu] at hflow
    obtain ⟨rfl, -⟩ := hflow
    refine ⟨fun r hr => ?_, hcalls⟩
    rw [hport] at hr
    exact absurd hr List.not_mem_nil

/-- Every step keeps two states alike. -/
theorem step_alike {s s' t : State} (h : Alike s s') (hstep : step s = .next t) :
    ∃ t', step s' = .next t' ∧ Alike t t' := by
  obtain ⟨w, i, hw, hi, he⟩ | ⟨hport, hh⟩ := step_next hstep
  · obtain ⟨t', he', ht⟩ := exec_alike h hw hi he
    refine ⟨t', ?_, ht⟩
    rw [step, h.host.port, hw]
    dsimp only
    rw [runWord, hi]
    exact he'
  · have hlive (r : RegName) (hr : r ∈ hostLive s.activity) : State.Agree r s s' :=
      h.regs r (by rw [hport]; exact hr)
    obtain ⟨hneed, hcalls⟩ := hostStep_flows hport h.calls hh
    refine ⟨withRegs s' t, ?_, sameHost_withRegs s' t, fun r hr => ?_, hcalls⟩
    · rw [step, h.host.port, hport]
      dsimp only
      rw [← hostStep_withRegs hlive hh, withRegs_of_sameHost h.host]
    · have hsame := agree_of_sameBlock (hostStep_sameBlock hh) r
      exact agree_withRegs.2 (agree_trans (agree_symm hsame) (hlive r (hneed r hr)))

/-- Runs of any length from states alike end in states alike. -/
theorem run_alike {s s' t : State} {n : Nat} (h : Alike s s') (hrun : Host.Core.run Sys2Proof.core n s = .next t) :
    ∃ t', Host.Core.run Sys2Proof.core n s' = .next t' ∧ Alike t t' := by
  induction n generalizing s s' with
  | zero =>
    cases hrun
    exact ⟨s', rfl, h⟩
  | succ n ih =>
    simp only [Host.Core.run] at hrun ⊢
    cases hs : Sys2Proof.core.step s with rw [hs] at hrun
    | next u =>
      obtain ⟨u', hs', hu⟩ := step_alike h hs
      rw [show Sys2Proof.core.step s' = .next u' from hs']
      exact ih hu hrun
    | fault f => cases hrun
    | refused r => cases hrun

/-- Settles O37: with the host idle no register is needed, so the two states are alike, and stay so. -/
theorem staleRegistersAreInvisible : Obligations.StaleRegistersAreInvisible := by
  intro s s' t c n hhost ⟨hport, hact, hprog⟩ hrun
  have hregs : ∀ r, Needed s.port (hostLive s.activity) r → State.Agree r s s' := by
    rw [hport, hact]
    exact nofun
  have hcalls : ∀ l ∈ s.program, ∃ c, l = .call c := by
    rw [hprog]
    exact List.forall_mem_singleton.2 ⟨c, rfl⟩
  obtain ⟨t', hrun', ht⟩ := run_alike ⟨hhost, hregs, hcalls⟩ hrun
  exact ⟨t', hrun', ht.host⟩

end Sys2Proof.Proofs
end

section
/-!
PROOF. The memory, the port and the launch of spec/20_memory.md: the words of `TROM` (R41), the instruction a step
takes from the port (R49, R51), and the single host (R49).
-/
namespace Sys2Proof.Proofs
open Sys2Proof.Machine Sys2Proof.Laws

/-! ### The port -/

/-- A step runs the word on the port as the instruction it decodes to (R51, R74). -/
theorem step_of_port {s : State} {p : PortWord} {i : Instr} (hp : s.port = some p) (hi : decode p = .ok i) :
    step s = exec i { s with port := none } := by
  simp only [step, hp, runWord, hi]

/-- A table word reads as an instruction when its width gives a word of the port and that word decodes to it. -/
theorem decodeTableWord_eq_some {nbits w : Nat} {i : Instr} :
    decodeTableWord nbits w = some i ↔ ∃ p, portWord nbits w = .ok p ∧ decode p = .ok i := by
  rw [decodeTableWord]
  cases portWord nbits w with
  | error _ => simp
  | ok p => cases hp : decode p <;> simp [Except.toOption, hp]

/-- A table word of a format's width stands on the port. -/
theorem withFetchWord_of_portWord {nbits w : Nat} {p : PortWord} (h : portWord nbits w = .ok p) (s : State) :
    s.withFetchWord nbits w = { s with port := some p } := by
  simp only [State.withFetchWord, h]

/-- Settles O26: a step takes the word on the port, whoever put it there; of the two that put one there,
`withFetchWord` presents a table word and the idle host its next line. -/
theorem stepRunsDecoded : Obligations.StepRunsDecoded := by
  refine ⟨fun _ _ _ => step_of_port, ?presented, ?issued⟩
  case presented =>
    intro s nbits w i h
    obtain ⟨p, hp, hi⟩ := decodeTableWord_eq_some.1 h
    rw [withFetchWord_of_portWord hp]
    exact step_of_port rfl hi
  case issued =>
    intro s w rest hc hport hact hprog
    rw [step_of_idle hc hport hact, startNext_of_word hprog]

/-! ### The launch -/

/-- The launch of one host's lines is the reset state with those lines to run (R49, R150). -/
theorem launch_singleton {c : Config} (hc : c.Legal) (lines : List Line) :
    launch c [lines] = .next { State.afterReset c with program := lines } :=
  requireConfig_of_legal hc _

/-- No host, and more than one, is refused (R49, R141). -/
theorem launch_of_length_ne_one {c : Config} (hc : c.Legal) {hosts : List (List Line)} (h : hosts.length ≠ 1) :
    launch c hosts = .refused .notOneHost := by
  match hosts with
  | [] | _ :: _ :: _ => exact requireConfig_of_legal hc _
  | [_] => exact absurd rfl h

/-- Settles O30: one host is launched from reset, any other number is refused. -/
theorem launchHasOneHost : Obligations.LaunchHasOneHost :=
  fun _ hc => ⟨launch_singleton hc, fun _ => launch_of_length_ne_one hc⟩

/-! ### The ROM -/

/-- Settles O3: the words at 0 to 7 are those of the list `tromWords`, which has no other (`trom_eq_none`). -/
theorem romContents : Obligations.RomContents :=
  ⟨rfl, rfl, rfl, rfl, rfl, rfl, rfl, rfl, trom_eq_none⟩

end Sys2Proof.Proofs
end

section
/-!
PROOF. The encodings of spec/30_encoding.md: decoding and encoding are inverse to each other on the words of either
format (R61, R64 to R66), the masks of R66 select what decodes, and the reserved words of R67. A word of an operation
is told by its row's mask and its operand fields; everything about `decodeOpw` follows from that.
-/
namespace Sys2Proof.Proofs
open Sys2Proof.Machine Sys2Proof.Laws

/-- Settles O8: `decode_encode`, the fields of a packed word read back and its row selecting it, case by case. -/
theorem decodeOfEncode : Obligations.DecodeOfEncode :=
  decode_encode

/-! ### The word of an operation -/

/-- A word is a packing exactly when its fields are the ones packed (R64). -/
theorem packOpw_eq_iff {op z : Nibble} {a b : Byte} {t : Word32} {w : Opw} :
    packOpw op z a b t = w ↔ opwOp w = op ∧ opwZ w = z ∧ opwA w = a ∧ opwB w = b ∧ opwT w = t := by
  constructor
  · rintro rfl
    simp
  · rintro ⟨rfl, rfl, rfl, rfl, rfl⟩
    exact packOpw_fields w

/-- The byte operand of `WAITR` holds `x` in bit 0 (R71). -/
theorem eq_waitrOperand_iff {a : Byte} {x : Bool} :
    a = waitrOperand x ↔ a = waitrOperand (a.getLsbD 0) ∧ a.getLsbD 0 = x := by
  revert a x; decide

section Words
variable {w : Opw}

theorem encode_enc_iff {axis period : Byte} :
    encode (.enc axis period) = .opw w ↔ encRow.Selects w ∧ opwA w = axis ∧ opwB w = period := by
  simp only [encode, PortWord.opw.injEq, packOpw_eq_iff, encRow_selects]
  tauto

theorem encode_tmo_iff {period : Byte} {timeout : Word32} :
    encode (.tmo period timeout) = .opw w ↔ tmoRow.Selects w ∧ opwB w = period ∧ opwT w = timeout := by
  simp only [encode, PortWord.opw.injEq, packOpw_eq_iff, tmoRow_selects]
  tauto

theorem encode_waitr_iff {x : Bool} :
    encode (.waitr x) = .opw w ↔ waitrRow.Selects w ∧ opwX w = x := by
  simp only [encode, PortWord.opw.injEq, packOpw_eq_iff, waitrRow_selects, opwX_eq,
    eq_waitrOperand_iff (x := x)]
  tauto

theorem encode_ldl_iff {b0 b1 : Byte} :
    encode (.ldl b0 b1) = .opw w ↔ ldlRow.Selects w ∧ opwA w = b0 ∧ opwB w = b1 := by
  simp only [encode, PortWord.opw.injEq, packOpw_eq_iff, ldlRow_selects]
  tauto

theorem encode_ldh_iff {b0 b1 : Byte} :
    encode (.ldh b0 b1) = .opw w ↔ ldhRow.Selects w ∧ opwA w = b0 ∧ opwB w = b1 := by
  simp only [encode, PortWord.opw.injEq, packOpw_eq_iff, ldhRow_selects]
  tauto

theorem encode_fuse_iff : encode .fuse = .opw w ↔ fuseRow.Selects w := by
  simp only [encode, PortWord.opw.injEq, packOpw_eq_iff, fuseRow_selects]

end Words

/-! ### A word that decodes -/

/-- The row an `op` picked must select the word (R74). -/
theorem decodeRow_eq_ok {r : OpwRow} {w : Opw} {i j : Instr} :
    decodeRow r w i = .ok j ↔ r.Selects w ∧ i = j := by
  unfold decodeRow
  split
  case isTrue h => rw [and_iff_right h, Except.ok.injEq]
  case isFalse h => exact ⟨nofun, fun e => absurd e.1 h⟩

/-- An operation word that decodes is the word of its instruction. -/
theorem encode_of_decodeOpw {w : Opw} {i : Instr} (h : decodeOpw w = .ok i) : encode i = .opw w := by
  unfold decodeOpw at h
  split at h
  case h_1 => obtain ⟨hsel, rfl⟩ := decodeRow_eq_ok.1 h; exact encode_enc_iff.2 ⟨hsel, rfl, rfl⟩
  case h_2 => obtain ⟨hsel, rfl⟩ := decodeRow_eq_ok.1 h; exact encode_tmo_iff.2 ⟨hsel, rfl, rfl⟩
  case h_3 => obtain ⟨hsel, rfl⟩ := decodeRow_eq_ok.1 h; exact encode_waitr_iff.2 ⟨hsel, rfl⟩
  case h_4 => obtain ⟨hsel, rfl⟩ := decodeRow_eq_ok.1 h; exact encode_ldl_iff.2 ⟨hsel, rfl, rfl⟩
  case h_5 => obtain ⟨hsel, rfl⟩ := decodeRow_eq_ok.1 h; exact encode_ldh_iff.2 ⟨hsel, rfl, rfl⟩
  case h_6 => obtain ⟨hsel, rfl⟩ := decodeRow_eq_ok.1 h; exact encode_fuse_iff.2 hsel
  case h_7 => cases h

/-- A command byte with period code `k` is the packing of `k` and its low field (R61). -/
theorem packCmd_of_cmdPeriod {c : Byte} {k : Nat} (h : (cmdPeriod c).toNat = k) :
    packCmd (BitVec.ofNat 4 k) (cmdAxisIndex c) = c := by
  rw [← h, BitVec.ofNat_toNat, BitVec.setWidth_eq, packCmd_fields]

/-- A command byte that decodes is the byte of its row with its low field. -/
theorem encode_of_decodeCmd {c : Byte} {i : Instr} (h : decodeCmd c = .ok i) : encode i = .cmd c := by
  unfold decodeCmd at h
  split at h
  case h_9 => cases h
  all_goals
    rename_i hp
    injection h with h
    subst h
    exact congrArg PortWord.cmd (packCmd_of_cmdPeriod hp)

/-- Decoding and encoding are inverse to each other (R61, R66). -/
theorem decode_eq_ok_iff {p : PortWord} {i : Instr} : decode p = .ok i ↔ encode i = p := by
  constructor
  · intro h
    cases p with
    | opw w => exact encode_of_decodeOpw h
    | cmd c => exact encode_of_decodeCmd h
  · rintro rfl
    exact decode_encode i

theorem decodeOpw_eq_ok_iff {w : Opw} {i : Instr} : decodeOpw w = .ok i ↔ encode i = .opw w :=
  decode_eq_ok_iff (p := .opw w)

/-- Settles O9: an operation word agrees with its row, whose other fields are 0, and a command byte is its two
fields. -/
theorem encodeOfDecode : Obligations.EncodeOfDecode :=
  fun _ _ => decode_eq_ok_iff.1

/-! ### The masks, and the reserved words -/

section Masks
variable {w : Opw}

theorem encRow_selects_iff_decode : encRow.Selects w ↔ decodeOpw w = .ok (.enc (opwA w) (opwB w)) := by
  rw [decodeOpw_eq_ok_iff, encode_enc_iff, and_iff_left ⟨rfl, rfl⟩]

theorem tmoRow_selects_iff_decode : tmoRow.Selects w ↔ decodeOpw w = .ok (.tmo (opwB w) (opwT w)) := by
  rw [decodeOpw_eq_ok_iff, encode_tmo_iff, and_iff_left ⟨rfl, rfl⟩]

theorem waitrRow_selects_iff_decode : waitrRow.Selects w ↔ decodeOpw w = .ok (.waitr (opwX w)) := by
  rw [decodeOpw_eq_ok_iff, encode_waitr_iff, and_iff_left rfl]

theorem ldlRow_selects_iff_decode : ldlRow.Selects w ↔ decodeOpw w = .ok (.ldl (opwA w) (opwB w)) := by
  rw [decodeOpw_eq_ok_iff, encode_ldl_iff, and_iff_left ⟨rfl, rfl⟩]

theorem ldhRow_selects_iff_decode : ldhRow.Selects w ↔ decodeOpw w = .ok (.ldh (opwA w) (opwB w)) := by
  rw [decodeOpw_eq_ok_iff, encode_ldh_iff, and_iff_left ⟨rfl, rfl⟩]

theorem fuseRow_selects_iff_decode : fuseRow.Selects w ↔ decodeOpw w = .ok .fuse := by
  rw [decodeOpw_eq_ok_iff, encode_fuse_iff]

/-- A word decodes to nothing exactly when no row of R66 selects it (R74). -/
theorem decodeOpw_error_iff :
    (∃ e, decodeOpw w = .error e) ↔ ¬ encRow.Selects w ∧ ¬ tmoRow.Selects w ∧ ¬ waitrRow.Selects w ∧
      ¬ ldlRow.Selects w ∧ ¬ ldhRow.Selects w ∧ ¬ fuseRow.Selects w := by
  constructor
  · rintro ⟨e, he⟩
    simp [encRow_selects_iff_decode, tmoRow_selects_iff_decode, waitrRow_selects_iff_decode,
      ldlRow_selects_iff_decode, ldhRow_selects_iff_decode, fuseRow_selects_iff_decode, he]
  · rintro ⟨henc, htmo, hwaitr, hldl, hldh, hfuse⟩
    cases hd : decodeOpw w with
    | error e => exact ⟨e, rfl⟩
    | ok i =>
      have hi := encode_of_decodeOpw hd
      cases i with
      | enc axis period => exact absurd (encode_enc_iff.1 hi).1 henc
      | tmo period timeout => exact absurd (encode_tmo_iff.1 hi).1 htmo
      | waitr x => exact absurd (encode_waitr_iff.1 hi).1 hwaitr
      | ldl b0 b1 => exact absurd (encode_ldl_iff.1 hi).1 hldl
      | ldh b0 b1 => exact absurd (encode_ldh_iff.1 hi).1 hldh
      | fuse => exact absurd (encode_fuse_iff.1 hi) hfuse
      | _ => cases hi

end Masks

/-- Settles O6: to decode to an operation is to be its word, and that is to be selected by its row. -/
theorem maskAndMatchSelect : Obligations.MaskAndMatchSelect :=
  fun _ => ⟨encRow_selects_iff_decode, tmoRow_selects_iff_decode, waitrRow_selects_iff_decode,
    ldlRow_selects_iff_decode, ldhRow_selects_iff_decode, fuseRow_selects_iff_decode, decodeOpw_error_iff⟩

/-- An `op` is the select code of one of the six operations, or reserved (R65, R67). -/
theorem op_cases : ∀ op : Nibble, (op = 1 ∨ op = 2 ∨ op = 3 ∨ op = 4 ∨ op = 5 ∨ op = 6) ∨
    op.toNat = 0 ∨ 7 ≤ op.toNat := by decide

/-- In `WAITR` bits 47:41 are 0 when the byte operand is 0 or 1 (R66). -/
theorem eq_waitrOperand_getLsbD_iff : ∀ a : Byte, a = waitrOperand (a.getLsbD 0) ↔ ¬ 2 ≤ a.toNat := by decide

/-- A reserved word on the port is refused by name (R67). -/
theorem step_of_reserved {s : State} {w : Opw} (hp : s.port = some (.opw w))
    (he : ∃ e, decodeOpw w = .error e) : step s = .refused .reservedOp := by
  obtain ⟨e, he⟩ := he
  simp only [step, hp, runWord, decode, he, rejected]

/-- Settles O7: no row selects the word, which each `op` turns into a condition on its own fields; a step with the
word is `runWord`'s refusal. -/
theorem reservedWordsRefused : Obligations.ReservedWordsRefused := by
  refine fun w => ⟨?_, fun _ => step_of_reserved⟩
  rw [decodeOpw_error_iff, encRow_selects, tmoRow_selects, waitrRow_selects, ldlRow_selects, ldhRow_selects,
    fuseRow_selects, opwX_eq, eq_waitrOperand_getLsbD_iff]
  obtain (h | h | h | h | h | h) | h := op_cases (opwOp w)
  case inr =>
    have hne {k : Nibble} (h0 : k.toNat ≠ 0) (h7 : k.toNat < 7) : opwOp w ≠ k := by rintro rfl; omega
    simp [hne]
    omega
  all_goals
    simp [h, -not_le, -Nat.not_le]
    tauto

end Sys2Proof.Proofs
end

section
/-!
PROOF. The command byte of spec/30_encoding.md: the verdict of R75, and the bytes `ENC` can produce (R62, R63).
-/
namespace Sys2Proof.Proofs
open Sys2Proof.Machine Sys2Proof.Laws

/-- The byte of a period and an axis field, as a number, and the range of the two (R61, R63). -/
abbrev IsCommandByte (axisCount : Nat) (c : Byte) (p a : Nat) : Prop :=
  c.toNat = 16 * p + a ∧ p ≤ 7 ∧ 1 ≤ a ∧ a ≤ axisCount

/-- A command byte is `16 * period + axisIndex` (R61). -/
theorem cmd_toNat (c : Byte) : c.toNat = 16 * (cmdPeriod c).toNat + (cmdAxisIndex c).toNat := by
  rw [← packCmd_toNat, packCmd_fields]

/-- The verdict gives the fields of a legal byte, which are the only way to write it (R75). -/
theorem classifyCommand_eq_legal_iff {n p a : Nat} {c : Byte} (hn : n = 2 ∨ n = 3) :
    classifyCommand n c = .legal p a ↔ IsCommandByte n c p a := by
  have hc := cmd_toNat c
  have ha := (cmdAxisIndex c).isLt
  unfold classifyCommand
  split
  case isTrue h => rw [CommandVerdict.legal.injEq]; omega
  case isFalse h => exact ⟨nofun, fun _ => absurd (by omega) h⟩

theorem classifyCommand_eq_invalid_iff {n : Nat} {c : Byte} (hn : n = 2 ∨ n = 3) :
    classifyCommand n c = .invalid ↔ ¬ ∃ p a, IsCommandByte n c p a := by
  simp only [← classifyCommand_eq_legal_iff hn]
  cases classifyCommand n c <;> simp

/-- Settles O10: the number of a byte determines its two fields. -/
theorem commandByteVerdict : Obligations.CommandByteVerdict :=
  fun _ _ hn => ⟨fun _ _ => classifyCommand_eq_legal_iff hn, classifyCommand_eq_invalid_iff hn⟩

/-- `ENC` of a valid axis and period stores their command byte (R80). -/
theorem execEnc_of_valid {s : State} {axis period : Byte} (hc : s.cfg.Legal) (ha : axisValid s.cfg axis)
    (hp : periodValid period) :
    execEnc axis period s = .next { s with st := .noError, cmd := some (commandByte s.cfg axis period) } := by
  rw [execEnc, requireConfig_of_legal hc, if_neg (not_not.2 ha), if_neg (not_not.2 hp)]
  rfl

/-- The operands that make `ENC` produce a given byte: its period field, and its axis field counted from
`AXIS_BASE` (R62, R68). -/
theorem exists_operands_of_commandByte {cfg : Config} {c : Byte} {p a : Nat} (hc : cfg.Legal)
    (h : IsCommandByte cfg.axisCount c p a) :
    ∃ axis period, axisValid cfg axis ∧ periodValid period ∧ commandByte cfg axis period = c := by
  obtain ⟨hcount, hbase, -⟩ := hc
  obtain ⟨hbyte, hp, ha, han⟩ := h
  have haxis : (BitVec.ofNat 8 (cfg.axisBase + a - 1)).toNat = cfg.axisBase + a - 1 := by
    rw [BitVec.toNat_ofNat, Nat.mod_eq_of_lt (by omega)]
  have hperiod : (BitVec.ofNat 8 p).toNat = p := by
    rw [BitVec.toNat_ofNat, Nat.mod_eq_of_lt (by omega)]
  refine ⟨BitVec.ofNat 8 (cfg.axisBase + a - 1), BitVec.ofNat 8 p, ?_, ?_, BitVec.eq_of_toNat_eq ?_⟩
  · rw [axisValid, haxis]
    omega
  · rw [periodValid, hperiod]
    exact hp
  · rw [commandByte, packCmd_toNat, axisIndex, BitVec.toNat_setWidth, haxis, hperiod, BitVec.toNat_ofNat,
      Nat.mod_eq_of_lt (by omega), Nat.mod_eq_of_lt (by omega)]
    omega

/-- Settles O14: `ENC` leaves a byte only on success, and then one whose verdict is legal; each legal byte has operands
that make it. -/
theorem producedCommandBytes : Obligations.ProducedCommandBytes := by
  intro s c hc
  constructor
  · rintro ⟨axis, period, t, h, hcmd⟩
    obtain ⟨-, ⟨-, rfl⟩ | ⟨-, -, rfl⟩ | ⟨ha, hp, rfl⟩⟩ := execEnc_next h
    · cases hcmd
    · cases hcmd
    · injection hcmd with hcmd
      subst hcmd
      have hlegal := classifyCommand_commandByte hc ha hp
      rwa [ne_eq, classifyCommand_eq_invalid_iff hc.1, not_not] at hlegal
  · rintro ⟨p, a, h⟩
    obtain ⟨axis, period, haxis, hperiod, rfl⟩ := exists_operands_of_commandByte hc h
    exact ⟨axis, period, _, execEnc_of_valid hc haxis hperiod, rfl⟩

end Sys2Proof.Proofs
end

section
/-!
PROOF. The fixed facts of spec/30_encoding.md: written-out words (R61, R64 to R66) and lines of text (R72, R73).
-/
namespace Sys2Proof.Proofs
open Sys2Proof.Machine Sys2Proof.Laws

/-- A table word spells the instruction it is the word of, and no other. -/
theorem decodeTableWord_eq_some_iff_encode {nbits w : Nat} {i : Instr} :
    decodeTableWord nbits w = some i ↔ portWord nbits w = .ok (encode i) := by
  simp only [decodeTableWord_eq_some, decode_eq_ok_iff]
  exact ⟨fun ⟨_, hp, hi⟩ => hi ▸ hp, fun h => ⟨_, h, rfl⟩⟩

/-- Settles O5: the words are the encodings of their instructions, and the three rejected ones break `z`, `WAITR`'s
bits 47:41 and the period field. -/
theorem wordsDecode : Obligations.WordsDecode := by
  unfold Obligations.WordsDecode
  simp only [decodeTableWord_eq_some_iff_encode]
  decide

/-- Settles O11: six lines, read by the assembler. -/
theorem assemblerLines : Obligations.AssemblerLines := by
  unfold Obligations.AssemblerLines
  decide

end Sys2Proof.Proofs
end

section
/-!
PROOF. The command encoder of spec/40_encode.md: what `ENC` does (R80, R81), that its byte names its operands (R83),
and the command bytes as words (R84).
-/
namespace Sys2Proof.Proofs
open Sys2Proof.Machine Sys2Proof.Laws

section CommandByte
variable {c : Config} {axis period : Byte}

/-- The axis field of a valid axis holds its 1-based number whole (R68). -/
theorem axisIndex_toNat (hc : c.Legal) (ha : axisValid c axis) :
    (axisIndex c axis).toNat = axis.toNat - c.axisBase + 1 := by
  obtain ⟨hcount, -, -⟩ := hc
  rw [axisIndex, BitVec.toNat_ofNat, Nat.mod_eq_of_lt (by omega)]

/-- The period field holds a valid period whole (R69). -/
theorem period_setWidth_toNat (hp : periodValid period) : (period.setWidth 4).toNat = period.toNat := by
  rw [BitVec.toNat_setWidth, Nat.mod_eq_of_lt (by omega)]

theorem cmdPeriod_commandByte (hp : periodValid period) :
    (cmdPeriod (commandByte c axis period)).toNat = period.toNat := by
  rw [commandByte, cmdPeriod_packCmd, period_setWidth_toNat hp]

theorem cmdAxisIndex_commandByte (hc : c.Legal) (ha : axisValid c axis) :
    (cmdAxisIndex (commandByte c axis period)).toNat = axis.toNat - c.axisBase + 1 := by
  rw [commandByte, cmdAxisIndex_packCmd, axisIndex_toNat hc ha]

/-- `16 * period + axisIndex` as a byte (R80). -/
theorem commandByte_eq_ofNat (hc : c.Legal) (ha : axisValid c axis) (hp : periodValid period) :
    commandByte c axis period = BitVec.ofNat 8 (16 * period.toNat + (axis.toNat - c.axisBase + 1)) := by
  rw [← cmdPeriod_commandByte hp, ← cmdAxisIndex_commandByte hc ha, ← cmd_toNat, BitVec.ofNat_toNat,
    BitVec.setWidth_eq]

end CommandByte

section Enc
variable {s t : State} {axis period : Byte}

/-- `ENC` of an axis outside the range, whatever the period (R80, R81). -/
theorem execEnc_of_not_axisValid (hc : s.cfg.Legal) (ha : ¬ axisValid s.cfg axis) :
    execEnc axis period s = .next { s with st := .badAxis, cmd := none } := by
  rw [execEnc, requireConfig_of_legal hc, if_pos ha]
  rfl

/-- `ENC` of a valid axis and a period above 7 (R80, R81). -/
theorem execEnc_of_not_periodValid (hc : s.cfg.Legal) (ha : axisValid s.cfg axis) (hp : ¬ periodValid period) :
    execEnc axis period s = .next { s with st := .badPeriod, cmd := none } := by
  rw [execEnc, requireConfig_of_legal hc, if_neg (not_not.2 ha), if_pos hp]
  rfl

/-- The fields of a byte that `ENC` leaves are its operands, of which the axis is not below `AXIS_BASE` (R83). -/
theorem operands_of_execEnc {c : Byte} (h : execEnc axis period s = .next t) (hcmd : t.cmd = some c) :
    s.cfg.axisBase ≤ axis.toNat ∧ (cmdPeriod c).toNat = period.toNat ∧
      (cmdAxisIndex c).toNat = axis.toNat - s.cfg.axisBase + 1 := by
  obtain ⟨hc, ⟨-, rfl⟩ | ⟨-, -, rfl⟩ | ⟨ha, hp, rfl⟩⟩ := execEnc_next h
  · cases hcmd
  · cases hcmd
  · injection hcmd with hcmd
    subst hcmd
    exact ⟨ha.1, cmdPeriod_commandByte hp, cmdAxisIndex_commandByte hc ha⟩

end Enc

/-- Settles O12: the three branches of `execEnc`, the stored byte as a number, and the fields of a packed word. -/
theorem encEffect : Obligations.EncEffect := by
  refine ⟨fun s axis period hc => ⟨fun h => ?badAxis, fun ⟨hlo, hhi, h⟩ => ?badPeriod, fun ⟨hlo, hhi, hp⟩ => ?ok⟩,
    fun axis period => ⟨_, rfl, packOpw_eq_iff.1 rfl⟩⟩
  case badAxis => exact execEnc_of_not_axisValid hc (by omega)
  case badPeriod => exact execEnc_of_not_periodValid hc ⟨hlo, hhi⟩ (not_le.2 h)
  case ok =>
    rw [← commandByte_eq_ofNat hc ⟨hlo, hhi⟩ hp]
    exact execEnc_of_valid hc ⟨hlo, hhi⟩ hp

/-- Settles O13: two successful `ENC`s with one byte read their operands from the same two fields, and the axis,
being at least `AXIS_BASE`, is recovered from its index. -/
theorem commandByteDeterminesOperands : Obligations.CommandByteDeterminesOperands := by
  intro s t t' axis period axis' period' c h _ hcmd
  obtain ⟨hbase, hperiod, hindex⟩ := operands_of_execEnc h hcmd
  refine ⟨hperiod, hindex, fun h' _ hcmd' => ?_⟩
  obtain ⟨hbase', hperiod', hindex'⟩ := operands_of_execEnc h' hcmd'
  exact ⟨BitVec.eq_of_toNat_eq (by omega), BitVec.eq_of_toNat_eq (hperiod'.symm.trans hperiod)⟩

/-- Settles O24: every command-byte row means `sensorOnly`, which is the refusal. -/
theorem sensorCommandsStop : Obligations.SensorCommandsStop :=
  fun _ _ => ⟨rfl, rfl, rfl, rfl, rfl, rfl, rfl, rfl⟩

end Sys2Proof.Proofs
end

section
/-!
PROOF. The timeout and the wait of spec/41_timeout.md: what `TMO` and `WAITR` do (R90 to R92), the strict polled wait
(R93), and that the five calls poll only with the ready line wired and delay only without (R92 b, R93, R94, R115).
-/
namespace Sys2Proof.Proofs
open Sys2Proof.Machine Sys2Proof.Laws

/-! ### The ready line

The host's record is looked at line by line: a line adds at most one event and one operation, and goes on to a
position with a wait's outcome only from the polled wait. -/

/-- What the host has recorded is allowed where the ready line is wired as `wired` says. -/
structure RecordAllowed (wired : Bool) (s : State) : Prop where
  cfg : s.cfg.readyWired = wired
  trace : ∀ e ∈ s.trace, e.allowed wired = true
  issued : ∀ i ∈ s.issued, opAllowed wired i = true

/-- The invariant is that of the record, and one of the position. -/
theorem waitInv_iff {s : State} : WaitInv s ↔ RecordAllowed s.cfg.readyWired s ∧
    ∀ a, s.activity = some a → a.polled = true → s.cfg.readyWired = true :=
  ⟨fun h => ⟨⟨rfl, h.trace, h.issued⟩, h.activity⟩, fun ⟨h, ha⟩ => ⟨h.trace, h.issued, ha⟩⟩

/-- After a line of a sequence: the record is allowed, and a position with a wait's outcome takes a wired ready
line. -/
def LineAllowed {π ρ : Type} (wired : Bool) (polled : π → Bool) : Progress π ρ → Prop
  | .goto p t => RecordAllowed wired t ∧ (polled p = true → wired = true)
  | .done _ t => RecordAllowed wired t
  | .fault _ => True

section RecordAllowed
variable {wired : Bool} {s : State} (h : RecordAllowed wired s)
include h

theorem recordAllowed_emit {e : Event} (he : e.allowed wired = true) : RecordAllowed wired (s.emit e) :=
  { h with trace := List.forall_mem_append.2 ⟨h.trace, List.forall_mem_singleton.2 he⟩ }

theorem recordAllowed_issue {i : Instr} (hi : opAllowed wired i = true) : RecordAllowed wired (s.issue i) :=
  { h with issued := List.forall_mem_append.2 ⟨h.issued, List.forall_mem_singleton.2 hi⟩ }

theorem recordAllowed_drawByte : RecordAllowed wired s.drawByte.2 := by
  constructor <;> simp only [drawByte_cfg, drawByte_trace, drawByte_issued]
  exacts [h.cfg, h.trace, h.issued]

theorem recordAllowed_drawWait : RecordAllowed wired s.drawWait.2 := by
  constructor <;> simp only [drawWait_cfg, drawWait_trace, drawWait_issued]
  exacts [h.cfg, h.trace, h.issued]

theorem stepConvert_lineAllowed (axis period : Byte) (p : ConvertPoint) :
    LineAllowed wired (fun _ => false) (stepConvert axis period p s) := by
  cases p with
  | enc => exact ⟨recordAllowed_issue h rfl, nofun⟩
  | test =>
    unfold stepConvert
    dsimp only
    split
    · exact h
    · exact ⟨h, nofun⟩
  | tx =>
    unfold stepConvert
    dsimp only
    split
    · exact ⟨recordAllowed_emit h rfl, nofun⟩
    · trivial
  | ret => exact h
  | sel | pulse | desel => exact ⟨recordAllowed_emit h rfl, nofun⟩

theorem stepGet_lineAllowed (d : Dest) (p : GetPoint) :
    LineAllowed wired (fun _ => false) (stepGet d p s) := by
  cases p with
  | sel | desel => exact ⟨recordAllowed_emit h rfl, nofun⟩
  | rx0 | rx1 => exact ⟨recordAllowed_emit (recordAllowed_drawByte h) rfl, nofun⟩
  | load => cases d <;> exact ⟨recordAllowed_issue h rfl, nofun⟩
  | ret => exact h

end RecordAllowed

/-- A line of an inner sequence is allowed in the outer one, if the outer position has a wait's outcome when the
inner one has, and the outer one's own line at a return is allowed. -/
theorem lineAllowed_nest {π ρ π' ρ' : Type} {wired : Bool} {polled : π → Bool} {polled' : π' → Bool}
    {place : π → π'} {next : ρ → State → Progress π' ρ'} {x : Progress π ρ} (hx : LineAllowed wired polled x)
    (hplace : ∀ p, polled' (place p) = polled p)
    (hnext : ∀ y t, RecordAllowed wired t → LineAllowed wired polled' (next y t)) :
    LineAllowed wired polled' (nest place next x) := by
  cases x with
  | goto p t => exact ⟨hx.1, fun hp => hx.2 (hplace p ▸ hp)⟩
  | done y t => exact hnext y t hx
  | fault f => trivial

section Lines
variable {wired : Bool} {s : State} (h : RecordAllowed wired s)
include h

/-- In `READ` the wait is where the two wirings part: the polled one alone comes to `WAITR` (R92 b, R93, R94). -/
theorem stepRead_lineAllowed (d : Dest) (axis period : Byte) (timeout : Word32) {p : ReadPoint}
    (hp : p.polled = true → wired = true) :
    LineAllowed wired ReadPoint.polled (stepRead d axis period timeout p s) := by
  cases p with
  | converting q =>
    rw [stepRead_converting]
    refine lineAllowed_nest (stepConvert_lineAllowed h axis period q) (fun _ => rfl) fun code t ht => ?_
    split
    · exact ht
    · exact ⟨ht, nofun⟩
  | tmo => exact ⟨recordAllowed_issue h rfl, nofun⟩
  | test =>
    unfold stepRead
    dsimp only
    split
    · exact h
    · exact ⟨h, nofun⟩
  | latch =>
    unfold stepRead
    dsimp only
    split
    · exact ⟨h, nofun⟩
    · trivial
  | wait t =>
    unfold stepRead
    dsimp only
    rw [h.cfg]
    split
    case isTrue hw => exact ⟨recordAllowed_emit (recordAllowed_drawWait h) hw, fun _ => hw⟩
    case isFalse hw => exact ⟨recordAllowed_emit h (by simpa [Event.allowed] using hw), nofun⟩
  | report w => exact ⟨recordAllowed_issue h (hp rfl), fun _ => hp rfl⟩
  | judge w =>
    cases w with
    | expired => exact h
    | ready => exact ⟨h, nofun⟩
  | getting q =>
    rw [stepRead_getting]
    exact lineAllowed_nest (stepGet_lineAllowed h d q) (fun _ => rfl) fun _ _ ht => ht

theorem stepReadHp_lineAllowed (axis : Byte) (timeout : Word32) {p : ReadHpPoint}
    (hp : (Activity.readHp axis timeout p).polled = true → wired = true) :
    LineAllowed wired (fun q => (Activity.readHp axis timeout q).polled) (stepReadHp axis timeout p s) := by
  cases p with
  | low q =>
    rw [stepReadHp_low]
    refine lineAllowed_nest (stepRead_lineAllowed h .low axis 6 timeout hp) (fun _ => rfl) fun r t ht => ?_
    split
    · exact ht
    · exact ⟨ht, nofun⟩
  | high q =>
    rw [stepReadHp_high]
    refine lineAllowed_nest (stepRead_lineAllowed h .high axis 7 timeout hp) (fun _ => rfl) fun r t ht => ?_
    split
    · exact ht
    · exact ⟨ht, nofun⟩
  | fuse => exact ⟨recordAllowed_issue h rfl, nofun⟩
  | ret =>
    unfold stepReadHp
    dsimp only
    split
    · exact h
    · trivial

/-- In `BEGIN` the ready line is set up only when it is wired (R115). -/
theorem stepBegin_lineAllowed {p : BeginPoint} (hp : (Activity.begin p).polled = true → wired = true) :
    LineAllowed wired (fun q => (Activity.begin q).polled) (stepBegin p s) := by
  cases p with
  | dirReady =>
    unfold stepBegin
    dsimp only
    rw [h.cfg]
    split
    case isTrue hw => exact ⟨recordAllowed_emit h hw, nofun⟩
    case isFalse => exact ⟨h, nofun⟩
  | reading q =>
    rw [stepBegin_reading]
    exact lineAllowed_nest (stepRead_lineAllowed h .low _ 0 0 hp) (fun _ => rfl) fun _ _ ht => ht
  | dirSelect | dirReset | desel | rstIdle | busCfg => exact ⟨recordAllowed_emit h rfl, nofun⟩

theorem stepActivity_lineAllowed {a : Activity} (ha : a.polled = true → wired = true) :
    LineAllowed wired Activity.polled (stepActivity a s) := by
  cases a with
  | convert axis period p =>
    rw [stepActivity_convert]
    exact lineAllowed_nest (stepConvert_lineAllowed h axis period p) (fun _ => rfl) fun _ _ ht => ht
  | getResult d p =>
    rw [stepActivity_getResult]
    exact lineAllowed_nest (stepGet_lineAllowed h d p) (fun _ => rfl) fun _ _ ht => ht
  | read d axis period timeout p =>
    rw [stepActivity_read]
    exact lineAllowed_nest (stepRead_lineAllowed h d axis period timeout ha) (fun _ => rfl) fun _ _ ht => ht
  | readHp axis timeout p =>
    rw [stepActivity_readHp]
    exact lineAllowed_nest (stepReadHp_lineAllowed h axis timeout ha) (fun _ => rfl) fun _ _ ht => ht
  | begin p =>
    rw [stepActivity_begin]
    exact lineAllowed_nest (stepBegin_lineAllowed h ha) (fun _ => rfl) fun _ _ ht => ht

end Lines

/-- No call begins with a wait's outcome in hand. -/
theorem polled_enter (c : Call) : (enter c).polled = false := by
  cases c <;> rfl

/-- The invariant speaks of nothing in the block but the configuration. -/
theorem waitInv_of_sameHost {s t : State} (h : SameHost s t) (hs : WaitInv s) : WaitInv t where
  trace := by rw [h.cfg, h.trace]; exact hs.trace
  issued := by rw [h.cfg, h.issued]; exact hs.issued
  activity := by rw [h.cfg, h.activity]; exact hs.activity

/-- A call begins with an empty record; a bare word is not recorded (log 14). -/
theorem startNext_waitInv {s : State} (hs : WaitInv s) : WaitInv (startNext s) := by
  match hprog : s.program with
  | [] => rw [startNext_of_nil hprog]; exact hs
  | .word w :: rest => rw [startNext_of_word hprog]; exact { hs with }
  | .call c :: rest =>
    rw [startNext_of_call hprog]
    refine { trace := nofun, issued := nofun, activity := ?_ }
    rintro _ ⟨⟩ hpolled
    rw [polled_enter] at hpolled
    cases hpolled

theorem hostStep_waitInv {s t : State} (hs : WaitInv s) (hstep : hostStep s = .next t) : WaitInv t := by
  obtain ⟨hrecord, hact⟩ := waitInv_iff.1 hs
  obtain ⟨-, ⟨-, rfl⟩ | ⟨a, a', u, ha, hu, rfl⟩ | ⟨a, r, u, ha, hu, rfl⟩⟩ := hostStep_eq_next.1 hstep
  · exact startNext_waitInv hs
  · have hline := stepActivity_lineAllowed hrecord (hact a ha)
    rw [hu] at hline
    obtain ⟨⟨hcfg, htrace, hissued⟩, hpolled⟩ := hline
    rw [← hcfg] at htrace hissued hpolled
    refine { trace := htrace, issued := hissued, activity := ?_ }
    rintro _ ⟨⟩
    exact hpolled
  · have hline := stepActivity_lineAllowed hrecord (hact a ha)
    rw [hu] at hline
    obtain ⟨hcfg, htrace, hissued⟩ := hline
    rw [← hcfg] at htrace hissued
    exact { trace := htrace, issued := hissued, activity := nofun }

/-- Settles O34: an operation taken from the port leaves the host's record and position; a line of a sequence adds to
the record only what `READY_WIRED` allows, and comes to a wait's outcome only by the polled wait. -/
theorem stepKeepsWaitInv : Obligations.StepKeepsWaitInv := by
  intro s t hs h
  obtain ⟨w, i, -, -, he⟩ | ⟨-, hh⟩ := step_next h
  · exact waitInv_of_sameHost (s := { s with port := none }) (exec_frame he).1 { hs with }
  · exact hostStep_waitInv hs hh

/-! ### The timeout lookup -/

/-- A timeout of the caller's own is the effective one, whatever the period (R90, D13). -/
theorem effectiveTimeout_of_ne_zero {period : Byte} {timeout : Word32} (h : timeout ≠ 0) :
    effectiveTimeout period timeout = some timeout :=
  if_pos h

/-- A timeout left open is the period's word of the ROM, if there is one (R90). -/
theorem effectiveTimeout_zero (period : Byte) :
    effectiveTimeout period 0 = (trom period.toNat).map fun w => w.setWidth 32 := by
  rw [effectiveTimeout, if_neg (not_not.2 rfl)]
  split
  case isTrue => rfl
  case isFalse hp => rw [trom_eq_none _ (not_le.1 hp), Option.map_none]

/-- The words of the ROM, zero-extended, are the defaults of R91. -/
theorem trom_setWidth (i : Nat) : (trom i).map (fun w => w.setWidth 32) =
    [501, 1001, 2001, 4001, 7501, 15001, 35501, 60001][i]?.map (BitVec.ofNat 32) := by
  rw [trom, ← List.getElem?_map, ← List.getElem?_map]
  rfl

section Exec
variable {s : State} (hc : s.cfg.Legal)
include hc

theorem execTmo_of_some {period : Byte} {timeout u : Word32} (h : effectiveTimeout period timeout = some u) :
    execTmo period timeout s = .next { s with st := .noError, tmo := some u } := by
  rw [execTmo, requireConfig_of_legal hc, h]
  rfl

theorem execTmo_of_none {period : Byte} {timeout : Word32} (h : effectiveTimeout period timeout = none) :
    execTmo period timeout s = .next { s with st := .badPeriod, tmo := none } := by
  rw [execTmo, requireConfig_of_legal hc, h]
  rfl

theorem execWaitr_of_legal (x : Bool) :
    execWaitr x s = .next { s with st := if x then .timeout else .noError } := by
  rw [execWaitr, requireConfig_of_legal hc]
  cases x <;> rfl

end Exec

/-- Settles O15: `TMO` stores the effective timeout if there is one, and the three clauses say which; the fields of its
word are those of a packed one. -/
theorem tmoEffect : Obligations.TmoEffect := by
  refine ⟨fun s period timeout hc => ⟨fun h => ?given, fun w h hw => ?default, fun h hp => ?none⟩,
    fun period timeout => ⟨_, rfl, packOpw_eq_iff.1 rfl⟩⟩
  case given => exact execTmo_of_some hc (effectiveTimeout_of_ne_zero h)
  case default =>
    subst h
    exact execTmo_of_some hc (by rw [effectiveTimeout_zero, trom_setWidth, hw, Option.map_some])
  case none => exact execTmo_of_none hc (effectiveTimeout_eq_none.2 ⟨h, hp⟩)

/-- The byte operand of `WAITR` as a number (R71). -/
theorem waitrOperand_toNat (x : Bool) : (waitrOperand x).toNat = if x then 1 else 0 := by
  cases x <;> rfl

/-- Settles O16: `execWaitr` at both operands, and the fields of a packed word. -/
theorem waitrEffect : Obligations.WaitrEffect := by
  refine ⟨fun s hc => ⟨execWaitr_of_legal hc true, execWaitr_of_legal hc false⟩, fun x => ?_⟩
  obtain ⟨hop, hz, ha, hb, ht⟩ := packOpw_eq_iff.1 (rfl : packOpw 3 0 (waitrOperand x) 0 0 = _)
  exact ⟨_, rfl, hop, hz, by rw [ha, waitrOperand_toNat], hb, ht⟩

/-! ### The polled wait

The loop of R93 is a search: its outcome is that of the first pass that has one. -/

/-- What one pass of the loop decides: the line is tested first, then the clock (D15). -/
def passOutcome (start : Clock) (t : Word32) (p : Bool × Clock) : Option WaitOutcome :=
  if p.1 then some .ready else if waitExpired start p.2 t then some .expired else none

section Poll
variable {start : Clock} {t : Word32}

theorem pollLoop_eq_findSome? (passes : List (Bool × Clock)) :
    pollLoop start t passes = passes.findSome? (passOutcome start t) := by
  induction passes with
  | nil => rfl
  | cons p rest ih =>
    rw [pollLoop, List.findSome?_cons, passOutcome, ih]
    split
    · rfl
    · split <;> rfl

theorem passOutcome_eq_none_iff {p : Bool × Clock} :
    passOutcome start t p = none ↔ p.1 = false ∧ waitExpired start p.2 t = false := by
  rw [passOutcome]
  cases p.1 <;> cases waitExpired start p.2 t <;> simp

theorem passOutcome_eq_some_iff {p : Bool × Clock} {w : WaitOutcome} :
    passOutcome start t p = some w ↔
      (w = .ready ∧ p.1 = true) ∨ (w = .expired ∧ p.1 = false ∧ waitExpired start p.2 t = true) := by
  rw [passOutcome]
  cases p.1 <;> cases waitExpired start p.2 t <;> simp [eq_comm]

/-- The clock's wrap is in the subtraction: only the elapsed time counts (R93, D16). -/
theorem waitExpired_add_iff {elapsed : Clock} :
    waitExpired start (start + elapsed) t = true ↔ t.toNat < elapsed.toNat := by
  rw [waitExpired, BitVec.add_comm, BitVec.add_sub_cancel, decide_eq_true_iff]

end Poll

/-- Settles O38: the loop finds the first pass with an outcome, so the passes before it have none. -/
theorem polledWaitIsStrict : Obligations.PolledWaitIsStrict := by
  refine ⟨fun _ _ _ => waitExpired_add_iff, fun start t passes w => ?_⟩
  simp only [pollLoop_eq_findSome?, List.findSome?_eq_some_iff, passOutcome_eq_none_iff, passOutcome_eq_some_iff]
  exact exists₃_congr fun _ _ _ => and_congr_right fun _ => and_comm

end Sys2Proof.Proofs
end

section
/-!
PROOF. The samples and the fusion of spec/42_fusion.md: what `LDL` and `LDH` load (R44, R100, R101), the readings of
`mod2` (R104), the thresholds (R105) and ranges (R103) of the fused value, and what `FUSE` does (R102, R106).
-/
namespace Sys2Proof.Proofs
open Sys2Proof.Machine Sys2Proof.Laws

/-! ### The loads -/

/-- Two received bytes as a signed number, the sign being bit 7 of the first (R44). -/
theorem sampleOf_toInt (b0 b1 : Byte) : (sampleOf b0 b1).toInt =
    if b0.toNat < 128 then (256 * b0.toNat + b1.toNat : Int) else 256 * b0.toNat + b1.toNat - 65536 := by
  have hb1 := b1.isLt
  rw [BitVec.toInt_eq_toNat_cond, sampleOf_toNat]
  split <;> split <;> omega

/-- Settles O17: both loads store the pattern of `sampleOf`; the fields of their words are those of a packed one. -/
theorem loadEffect : Obligations.LoadEffect := by
  refine ⟨fun s b0 b1 hc => ⟨sampleOf b0 b1, sampleOf_toNat b0 b1, sampleOf_toInt b0 b1, ?_, ?_⟩,
    fun b0 b1 => ⟨⟨_, rfl, packOpw_eq_iff.1 rfl⟩, ⟨_, rfl, packOpw_eq_iff.1 rfl⟩⟩⟩
  · exact requireConfig_of_legal hc _
  · exact requireConfig_of_legal hc _

/-! ### The signed reading of a sample -/

theorem half_toInt_bounds (h : Half) : -32768 ≤ h.toInt ∧ h.toInt ≤ 32767 :=
  ⟨BitVec.le_toInt h, Int.le_of_lt_add_one BitVec.toInt_lt⟩

/-- The sign bit weighs an even number, so bit 0 of the pattern is the parity of the signed number. -/
theorem half_toInt_emod_two (h : Half) : h.toInt % 2 = if h.getLsbD 0 then 1 else 0 := by
  rw [BitVec.toInt_eq_toNat_bmod, ← BitVec.testBit_toNat, Nat.testBit_zero, Int.bmod_def]
  simp only [decide_eq_true_eq]
  split <;> split <;> omega

/-! ### The readings of `mod2` -/

section Mod2
variable {c : Config} {h : Int}

theorem mod2_of_even (heven : h % 2 = 0) : mod2 c h = 0 :=
  if_pos heven

theorem mod2_of_odd_pos (hodd : h % 2 = 1) (hpos : 0 < h) : mod2 c h = 1 := by
  rw [mod2, if_neg (by omega), if_pos hpos]

theorem mod2_of_odd_neg (hodd : h % 2 = 1) (hneg : h < 0) : mod2 c h = c.mod2NegOdd := by
  rw [mod2, if_neg (by omega), if_neg (by omega)]

/-- An integer is even, positive and odd, or negative and odd: the three cases of R104. -/
theorem parity_cases (h : Int) : h % 2 = 0 ∨ (h % 2 = 1 ∧ 0 < h) ∨ (h % 2 = 1 ∧ h < 0) := by
  omega

/-- With `MOD2_NEG_ODD = +1`, `mod2` is the remainder of the floor division (R104). -/
theorem mod2_eq_emod (hc : c.mod2NegOdd = 1) (h : Int) : mod2 c h = h % 2 := by
  obtain heven | ⟨hodd, hpos⟩ | ⟨hodd, hneg⟩ := parity_cases h
  · rw [mod2_of_even heven, heven]
  · rw [mod2_of_odd_pos hodd hpos, hodd]
  · rw [mod2_of_odd_neg hodd hneg, hc, hodd]

/-- With `MOD2_NEG_ODD = -1`, `mod2` is the remainder of the truncating division (R104). -/
theorem mod2_eq_tmod (hc : c.mod2NegOdd = -1) (h : Int) : mod2 c h = h.tmod 2 := by
  obtain heven | ⟨hodd, hpos⟩ | ⟨hodd, hneg⟩ := parity_cases h
  · rw [mod2_of_even heven, Int.tmod_eq_zero_of_dvd (Int.dvd_of_emod_eq_zero heven)]
  · rw [mod2_of_odd_pos hodd hpos, Int.tmod_eq_emod_of_nonneg hpos.le, hodd]
  · rw [mod2_of_odd_neg hodd hneg, hc, Int.tmod_eq_emod, hodd, if_neg (by omega)]
    rfl

end Mod2

/-- Settles O20: bit 0 is the parity, so the three cases of R104 are those of `mod2`; the two settings of
`MOD2_NEG_ODD` make them the floor and the truncating remainder. -/
theorem mod2Readings : Obligations.Mod2Readings := by
  intro c h
  have hbit := half_toInt_emod_two h
  refine ⟨fun h0 => ?even, fun h0 hpos => ?oddPos, fun h0 hneg => ?oddNeg, fun hc => ⟨?bit, ?floor⟩,
    fun hc => mod2_eq_tmod hc _⟩
  case even => exact mod2_of_even (by rw [hbit, h0]; rfl)
  case oddPos => exact mod2_of_odd_pos (by rw [hbit, h0]; rfl) hpos
  case oddNeg => exact mod2_of_odd_neg (by rw [hbit, h0]; rfl) hneg
  case bit => rw [mod2_eq_emod hc, hbit]
  case floor => rw [mod2_eq_emod hc, ← Int.fmod_def, Int.fmod_eq_emod_of_nonneg _ (by decide)]

/-! ### The thresholds and the range -/

/-- Settles O22: the four patterns are read as signed numbers; those in the band from 0x3E80 to 0xC180 denote at
least 16000 where the sign bit is clear and at most -16000 where it is set. -/
theorem thresholdPatterns : Obligations.ThresholdPatterns := by
  refine ⟨fun _ => Iff.rfl, by decide, by decide, by decide, by decide, fun l => ?_⟩
  have hl := l.isLt
  rw [lowSaturated, BitVec.toInt_eq_toNat_cond]
  split <;> omega

theorem fuseValue_of_saturated {c : Config} {low : Int} (hlow : lowSaturated low) (high : Int) :
    fuseValue c low high = low * 2 + mod2 c high :=
  if_pos hlow

theorem fuseValue_of_not_saturated {c : Config} {low : Int} (hlow : ¬ lowSaturated low) (high : Int) :
    fuseValue c low high = high :=
  if_neg hlow

/-- With `MOD2_NEG_ODD = +1` the correction only adds, and the lower end is that of `low * 2` (R103). -/
theorem fuseValue_lower_of_posOdd {c : Config} (hc : c.mod2NegOdd = 1) (l h : Half) :
    -65536 ≤ fuseValue c l.toInt h.toInt := by
  have hl := half_toInt_bounds l
  have hh := half_toInt_bounds h
  by_cases hsat : lowSaturated l.toInt
  · rw [fuseValue_of_saturated hsat, mod2_eq_emod hc]
    omega
  · rw [fuseValue_of_not_saturated hsat]
    omega

/-- Settles O21: the samples are 16-bit signed numbers and the correction is -1, 0 or 1; `toInt_ofInt_fuseValue` is
the exactness of the stored pattern. -/
theorem fuseRange : Obligations.FuseRange := by
  intro c l h hc
  have hl := half_toInt_bounds l
  have hm := mod2_bounds hc h.toInt
  refine ⟨by omega, by omega, fun _ => fuseValue_bounds hc l h, fun hpos => fuseValue_lower_of_posOdd hpos l h,
    fun hsat => ?safe, toInt_ofInt_fuseValue hc l h⟩
  case safe =>
    rw [fuseValue_of_not_saturated hsat]
    exact half_toInt_bounds h

/-! ### `FUSE` -/

section Fuse
variable {s : State} (hc : s.cfg.Legal)
include hc

theorem execFuse_of_valid {l h : Half} (hl : s.low = some l) (hh : s.high = some h) :
    execFuse s = .next { s with
      res := some (BitVec.ofInt 32 (fuseValue s.cfg l.toInt h.toInt)), low := none, high := none } := by
  rw [execFuse, requireConfig_of_legal hc, hl, hh]

theorem execFuse_of_invalid (hinvalid : s.low = none ∨ s.high = none) :
    execFuse s = .fault .fuseOperandInvalid := by
  rw [execFuse, requireConfig_of_legal hc]
  obtain hl | hh := hinvalid
  · rw [hl]
  · rw [hh]
    cases s.low <;> rfl

end Fuse

/-- Settles O19: with both samples valid `FUSE` has a next state, and with either invalid it is the fault. -/
theorem fuseFaults : Obligations.FuseFaults := by
  refine fun s hc => ⟨fun hfault => ?_, execFuse_of_invalid hc⟩
  by_contra hvalid
  obtain ⟨hlow, hhigh⟩ := not_or.1 hvalid
  obtain ⟨l, hl⟩ := Option.ne_none_iff_exists'.1 hlow
  obtain ⟨h, hh⟩ := Option.ne_none_iff_exists'.1 hhigh
  cases (execFuse_of_valid hc hl hh).symm.trans hfault

/-- Settles O18: the stored pattern denotes the fused value exactly, which is the corrected `low * 2` in the band,
`mod2Readings` saying by which correction, and `high` outside it; the word is the packed select code 6. -/
theorem fuseEffect : Obligations.FuseEffect := by
  refine ⟨fun s l h hc hl hh => ⟨_, execFuse_of_valid hc hl hh, ?_⟩, congrArg PortWord.opw (by decide)⟩
  obtain ⟨heven, hpos, hneg, -, -⟩ := mod2Readings s.cfg h
  rw [toInt_ofInt_fuseValue hc]
  refine ⟨fun hsat => ?band, fun hsafe => ?safe⟩
  case band =>
    rw [fuseValue_of_saturated hsat]
    exact ⟨fun h0 => by rw [heven h0, add_zero], fun h0 hp => by rw [hpos h0 hp], fun h0 hn => by rw [hneg h0 hn]⟩
  case safe => exact fuseValue_of_not_saturated (by omega) _

end Sys2Proof.Proofs
end

section
/-!
PROOF. The driver calls never stop (spec/43_sequences.md R113 to R115, R158), and no call returns a sample beside an
error (R116). For the first: in a state in which position and registers agree, the operation on the port completes and
leaves them agreeing, and with the port empty so does the next line.
-/
namespace Sys2Proof.Proofs
open Sys2Proof.Machine Sys2Proof.Laws

/-! ### The operation on the port -/

/-- The port holds the word of an operation of `ops`, which completes and leaves a state of which `coh` holds. -/
def Completes (ops : Instr → Prop) (coh : State → Prop) (s : State) : Prop :=
  ∃ i t, ops i ∧ s.port = some (encode i) ∧ exec i { s with port := none } = .next t ∧ coh t

/-- A completed operation leaves the port empty. -/
theorem port_of_exec {i : Instr} {s t : State} (he : exec i { s with port := none } = .next t) : t.port = none :=
  (exec_frame he).1.port

/-- Of the operations only `FUSE` takes the low sample away (R27). -/
theorem lv_of_exec {i : Instr} {s t : State} (hi : i ≠ .fuse) (he : exec i { s with port := none } = .next t)
    (hl : s.lv = true) : t.lv = true := by
  cases i with
  | ldl b0 b1 =>
    obtain ⟨-, rfl⟩ := execLdl_next he
    rfl
  | fuse => exact absurd rfl hi
  | _ =>
    have hlow : t.low = s.low := (exec_frame he).2 .low rfl
    rw [State.lv, hlow]
    exact hl

section Awaiting
variable {s : State} {i : Instr} {before after : Prop} (h : s.Awaiting i before after)
include h

theorem after_of_awaiting (hport : s.port = none) : after := by
  obtain ⟨hp, -⟩ | ⟨-, ha⟩ := h
  · cases hport.symm.trans hp
  · exact ha

/-- An awaited operation completes if it has a next state where `before` holds. -/
theorem completes_of_awaiting {ops : Instr → Prop} {coh : State → Prop} (hport : s.port ≠ none) (hops : ops i)
    (hexec : before → ∃ t, exec i { s with port := none } = .next t ∧ (t.port = none → coh t)) :
    Completes ops coh s := by
  obtain ⟨hp, hb⟩ | ⟨hp, -⟩ := h
  · obtain ⟨t, he, ht⟩ := hexec hb
    exact ⟨i, t, hops, hp, he, ht (port_of_exec he)⟩
  · exact absurd hp hport

end Awaiting

section Completes
variable {s : State} (hc : s.cfg.Legal) (hport : s.port ≠ none)
include hc hport

/-- `ENC` sets `CV` when it reports `NoError` (R80). -/
theorem convert_completes {axis period : Byte} {p : ConvertPoint} (h : p.Coherent axis period s) :
    Completes (· ≠ .fuse) (p.Coherent axis period) s := by
  cases p with
  | test =>
    refine completes_of_awaiting h hport nofun fun _ => ?_
    by_cases ha : axisValid s.cfg axis
    case neg => exact ⟨_, execEnc_of_not_axisValid hc ha, fun hp => .inr ⟨hp, nofun⟩⟩
    by_cases hp : periodValid period
    case neg => exact ⟨_, execEnc_of_not_periodValid hc ha hp, fun hp => .inr ⟨hp, nofun⟩⟩
    exact ⟨_, execEnc_of_valid hc ha hp, fun hp => .inr ⟨hp, fun _ => rfl⟩⟩
  | sel | pulse | tx => exact absurd h.1 hport
  | enc | desel | ret => exact absurd h hport

/-- A load makes its destination valid (R100, R101). -/
theorem get_completes {d : Dest} {p : GetPoint} (h : p.Coherent d s) :
    Completes (· ≠ .fuse) (GetPoint.Coherent d · p) s := by
  cases p with
  | ret b0 b1 =>
    refine completes_of_awaiting h hport (by cases d <;> exact nofun) fun _ => ?_
    cases d <;> exact ⟨_, requireConfig_of_legal hc _, fun hp => .inr ⟨hp, rfl⟩⟩
  | sel | rx0 | rx1 | desel | load => exact absurd h hport

/-- `TMO` sets `TV` when it reports `NoError` (R90). -/
theorem read_completes {d : Dest} {axis period : Byte} {timeout : Word32} {p : ReadPoint}
    (h : p.Coherent d axis period timeout s) :
    Completes (· ≠ .fuse) (ReadPoint.Coherent d axis period timeout · p) s := by
  cases p with
  | converting q => exact convert_completes hc hport h
  | getting q => exact get_completes hc hport h
  | test =>
    refine completes_of_awaiting h hport nofun fun _ => ?_
    cases hu : effectiveTimeout period timeout with
    | none => exact ⟨_, execTmo_of_none (s := { s with port := none }) hc hu, fun hp => .inr ⟨hp, nofun⟩⟩
    | some u => exact ⟨_, execTmo_of_some (s := { s with port := none }) hc hu, fun hp => .inr ⟨hp, fun _ => rfl⟩⟩
  | judge w =>
    exact completes_of_awaiting h hport nofun fun _ =>
      ⟨_, execWaitr_of_legal (s := { s with port := none }) hc _, fun hp => .inr ⟨hp, trivial⟩⟩
  | latch => exact absurd h.1 hport
  | tmo | wait | report => exact absurd h hport

/-- `FUSE` finds both samples valid (R114 d); the second sub-read keeps the first one's. -/
theorem readHp_completes {axis : Byte} {timeout : Word32} {p : ReadHpPoint} (h : p.Coherent axis timeout s) :
    Completes (fun _ => True) (ReadHpPoint.Coherent axis timeout · p) s := by
  cases p with
  | low q =>
    obtain ⟨i, t, -, hp, he, ht⟩ := read_completes hc hport h
    exact ⟨i, t, trivial, hp, he, ht⟩
  | high q =>
    obtain ⟨hq, hl⟩ := h
    obtain ⟨i, t, hi, hp, he, ht⟩ := read_completes hc hport hq
    exact ⟨i, t, trivial, hp, he, ht, lv_of_exec hi he hl⟩
  | ret =>
    refine completes_of_awaiting h hport trivial fun ⟨hl, hh⟩ => ?_
    obtain ⟨l, hl⟩ := Option.isSome_iff_exists.1 hl
    obtain ⟨k, hh⟩ := Option.isSome_iff_exists.1 hh
    exact ⟨_, execFuse_of_valid (s := { s with port := none }) hc hl hh, fun hp => .inr ⟨hp, rfl⟩⟩
  | fuse => exact absurd h.1 hport

theorem begin_completes {p : BeginPoint} (h : p.Coherent s) :
    Completes (fun _ => True) (BeginPoint.Coherent · p) s := by
  cases p with
  | reading q =>
    obtain ⟨i, t, -, hp, he, ht⟩ := read_completes hc hport h
    have hcfg : t.cfg = s.cfg := (exec_frame he).1.cfg
    refine ⟨i, t, trivial, hp, he, ?_⟩
    change ReadPoint.Coherent .low (firstAxis t.cfg) 0 0 t q
    rw [hcfg]
    exact ht
  | dirSelect | dirReset | dirReady | desel | rstIdle | busCfg => exact absurd h hport

theorem activity_completes {o : Option Activity} (h : activityCoherent s o) :
    Completes (fun _ => True) (activityCoherent · o) s := by
  match o with
  | none => exact absurd h hport
  | some (.convert axis period p) =>
    obtain ⟨i, t, -, ht⟩ := convert_completes hc hport h
    exact ⟨i, t, trivial, ht⟩
  | some (.getResult d p) =>
    obtain ⟨i, t, -, ht⟩ := get_completes hc hport h
    exact ⟨i, t, trivial, ht⟩
  | some (.read d axis period timeout p) =>
    obtain ⟨i, t, -, ht⟩ := read_completes hc hport h
    exact ⟨i, t, trivial, ht⟩
  | some (.readHp axis timeout p) => exact readHp_completes hc hport h
  | some (.begin p) => exact begin_completes hc hport h

end Completes

/-! ### The next line of a sequence -/

/-- A line that starts at `s` does not stop: the position it comes to agrees with the registers, and a return, of
which `post` holds, changes nothing. -/
def Advances {π ρ : Type} (s : State) (coh : π → State → Prop) (post : ρ → Prop) : Progress π ρ → Prop
  | .goto p t => coh p t
  | .done x t => t = s ∧ post x
  | .fault _ => False

theorem advances_nest {π ρ π' ρ' : Type} {s : State} {coh : π → State → Prop} {coh' : π' → State → Prop}
    {post : ρ → Prop} {post' : ρ' → Prop} {place : π → π'} {next : ρ → State → Progress π' ρ'} {x : Progress π ρ}
    (hx : Advances s coh post x) (hplace : ∀ p t, x = .goto p t → coh p t → coh' (place p) t)
    (hnext : ∀ y, post y → Advances s coh' post' (next y s)) : Advances s coh' post' (nest place next x) := by
  cases x with
  | goto p t => exact hplace p t rfl hx
  | done y t =>
    obtain ⟨rfl, hy⟩ := hx
    exact hnext y hy
  | fault f => exact hx

section Advances
variable {s : State} (hport : s.port = none)
include hport

/-- The byte is sent at positions where `CV` is set (R158). -/
theorem stepConvert_advances {axis period : Byte} {p : ConvertPoint} (h : p.Coherent axis period s) :
    Advances s (fun q t => q.Coherent axis period t) (fun _ => True) (stepConvert axis period p s) := by
  cases p with
  | enc => exact .inl ⟨rfl, trivial⟩
  | test =>
    unfold stepConvert
    dsimp only
    split
    case isTrue => exact ⟨rfl, trivial⟩
    case isFalse hst => exact ⟨hport, after_of_awaiting h hport (not_not.1 hst)⟩
  | sel | pulse => exact h
  | tx =>
    obtain ⟨c, hcmd⟩ := Option.isSome_iff_exists.1 h.2
    simp only [stepConvert, hcmd]
    exact hport
  | desel => exact h
  | ret => exact ⟨rfl, trivial⟩

theorem stepGet_advances {d : Dest} {p : GetPoint} (h : p.Coherent d s) :
    Advances s (fun q t => q.Coherent d t) (fun _ => s.destValid d = true) (stepGet d p s) := by
  cases p with
  | sel | desel => exact hport
  | rx0 | rx1 => exact (drawByte_port s).trans hport
  | load b0 b1 => exact .inl ⟨rfl, trivial⟩
  | ret b0 b1 => exact ⟨rfl, after_of_awaiting h hport⟩

/-- `TMO` is read at the position where `TV` is set; a `READ` that succeeds leaves its destination valid (R113). -/
theorem stepRead_advances {d : Dest} {axis period : Byte} {timeout : Word32} {p : ReadPoint}
    (h : p.Coherent d axis period timeout s) :
    Advances s (fun q t => q.Coherent d axis period timeout t)
      (fun r => r.status = some .noError → s.destValid d = true) (stepRead d axis period timeout p s) := by
  cases p with
  | converting q =>
    rw [stepRead_converting]
    refine advances_nest (stepConvert_advances hport h) (fun _ _ _ => id) fun code _ => ?_
    split
    case isTrue hne => exact ⟨rfl, fun hcode => absurd (Option.some.inj hcode) hne⟩
    case isFalse => exact hport
  | tmo => exact .inl ⟨rfl, trivial⟩
  | test =>
    unfold stepRead
    dsimp only
    split
    case isTrue hne => exact ⟨rfl, fun hcode => absurd (Option.some.inj hcode) hne⟩
    case isFalse hst => exact ⟨hport, after_of_awaiting h hport (not_not.1 hst)⟩
  | latch =>
    obtain ⟨t, htmo⟩ := Option.isSome_iff_exists.1 h.2
    simp only [stepRead, htmo]
    exact hport
  | wait t =>
    unfold stepRead
    dsimp only
    split
    · exact (drawWait_port s).trans hport
    · exact hport
  | report w => exact .inl ⟨rfl, trivial⟩
  | judge w =>
    cases w with
    | expired => exact ⟨rfl, nofun⟩
    | ready => exact hport
  | getting q =>
    rw [stepRead_getting]
    exact advances_nest (stepGet_advances hport h) (fun _ _ _ => id) fun _ hd => ⟨rfl, fun _ => hd⟩

/-- The low sample is valid from the end of the first sub-read on, and the high one when `FUSE` is issued (R114). -/
theorem stepReadHp_advances {axis : Byte} {timeout : Word32} {p : ReadHpPoint} (h : p.Coherent axis timeout s) :
    Advances s (fun q t => q.Coherent axis timeout t) (fun _ => True) (stepReadHp axis timeout p s) := by
  cases p with
  | low q =>
    rw [stepReadHp_low]
    refine advances_nest (stepRead_advances hport h) (fun _ _ _ => id) fun r hr => ?_
    split
    case isTrue => exact ⟨rfl, trivial⟩
    case isFalse hok => exact ⟨hport, hr (not_not.1 hok)⟩
  | high q =>
    obtain ⟨hq, hl⟩ := h
    rw [stepReadHp_high]
    refine advances_nest (stepRead_advances hport hq) (fun q' t hgoto hq' => ⟨hq', ?_⟩) fun r hr => ?_
    · have hsame : SameBlock s t := stepRead_sameBlock (by rw [hgoto, after])
      rw [State.lv, hsame.low]
      exact hl
    · split
      case isTrue => exact ⟨rfl, trivial⟩
      case isFalse hok => exact ⟨hport, hl, hr (not_not.1 hok)⟩
  | fuse => exact .inl ⟨rfl, h.2⟩
  | ret =>
    obtain ⟨v, hres⟩ := Option.isSome_iff_exists.1 (after_of_awaiting h hport)
    simp only [stepReadHp, hres]
    exact ⟨rfl, trivial⟩

theorem stepBegin_advances {p : BeginPoint} (h : p.Coherent s) :
    Advances s (fun q t => q.Coherent t) (fun _ => True) (stepBegin p s) := by
  cases p with
  | dirReady =>
    unfold stepBegin
    dsimp only
    split <;> exact hport
  | reading q =>
    rw [stepBegin_reading]
    refine advances_nest (stepRead_advances hport h) (fun q' t hgoto hq' => ?_) fun _ _ => ⟨rfl, trivial⟩
    have hsame : SameBlock s t := stepRead_sameBlock (by rw [hgoto, after])
    change ReadPoint.Coherent .low (firstAxis t.cfg) 0 0 t q'
    rw [hsame.cfg]
    exact hq'
  | dirSelect | dirReset | desel | rstIdle | busCfg => exact hport

theorem stepActivity_advances {a : Activity} (h : activityCoherent s (some a)) :
    Advances s (fun b t => activityCoherent t (some b)) (fun _ => True) (stepActivity a s) := by
  cases a with
  | convert axis period p =>
    rw [stepActivity_convert]
    exact advances_nest (stepConvert_advances hport h) (fun _ _ _ => id) fun _ _ => ⟨rfl, trivial⟩
  | getResult d p =>
    rw [stepActivity_getResult]
    exact advances_nest (stepGet_advances hport h) (fun _ _ _ => id) fun _ _ => ⟨rfl, trivial⟩
  | read d axis period timeout p =>
    rw [stepActivity_read]
    exact advances_nest (stepRead_advances hport h) (fun _ _ _ => id) fun _ _ => ⟨rfl, trivial⟩
  | readHp axis timeout p =>
    rw [stepActivity_readHp]
    exact advances_nest (stepReadHp_advances hport h) (fun _ _ _ => id) fun _ _ => ⟨rfl, trivial⟩
  | begin p =>
    rw [stepActivity_begin]
    exact advances_nest (stepBegin_advances hport h) (fun _ _ _ => id) fun _ _ => ⟨rfl, trivial⟩

end Advances

/-! ### The step -/

/-- Agreement speaks of the port and the block: the position at which it is recorded does not matter. -/
theorem activityCoherent_setActivity {s : State} {o : Option Activity} (b : Option Activity) :
    activityCoherent { s with activity := b } o ↔ activityCoherent s o := by
  have hconvert (axis period : Byte) (p : ConvertPoint) :
      p.Coherent axis period { s with activity := b } ↔ p.Coherent axis period s := by
    cases p <;> rfl
  have hget (d : Dest) (p : GetPoint) : p.Coherent d { s with activity := b } ↔ p.Coherent d s := by
    cases d <;> cases p <;> rfl
  have hread (d : Dest) (axis period : Byte) (timeout : Word32) (p : ReadPoint) :
      p.Coherent d axis period timeout { s with activity := b } ↔ p.Coherent d axis period timeout s := by
    cases p with
    | converting q => exact hconvert axis period q
    | getting q => exact hget d q
    | _ => rfl
  match o with
  | none => rfl
  | some (.convert axis period p) => exact hconvert axis period p
  | some (.getResult d p) => exact hget d p
  | some (.read d axis period timeout p) => exact hread d axis period timeout p
  | some (.readHp axis timeout p) =>
    cases p with
    | low q => exact hread .low axis 6 timeout q
    | high q => exact and_congr_left' (hread .high axis 7 timeout q)
    | fuse | ret => rfl
  | some (.begin p) =>
    cases p with
    | reading q => exact hread .low (firstAxis s.cfg) 0 0 q
    | _ => rfl

theorem activityCoherent_enter {s : State} (hport : s.port = none) (c : Call) :
    activityCoherent s (some (enter c)) := by
  cases c <;> exact hport

/-- A step that takes an operation from the port keeps the agreement. -/
theorem step_hostInv_of_port {s : State} (hs : HostInv s) (hport : s.port ≠ none) :
    ∃ t, step s = .next t ∧ HostInv t := by
  obtain ⟨i, t, -, hp, he, ht⟩ := activity_completes hs.cfg hport hs.activity
  have hframe := (exec_frame he).1
  refine ⟨t, (step_of_port hp (decode_encode i)).trans he, ?_, ?_, ?_⟩
  · rw [hframe.cfg]
    exact hs.cfg
  · rw [hframe.program]
    exact hs.program
  · rw [hframe.activity]
    exact ht

/-- An idle host that begins a driver call, or has none left, keeps the agreement. -/
theorem startNext_hostInv {s : State} (hs : HostInv s) (hport : s.port = none) (hact : s.activity = none) :
    HostInv (startNext s) := by
  obtain ⟨-, hcalls⟩ := startNext_flows hport hact hs.program
  cases hprog : s.program with
  | nil =>
    rw [startNext_of_nil hprog]
    exact hs
  | cons l rest =>
    obtain ⟨c, rfl⟩ := hs.program l (by rw [hprog]; exact List.mem_cons_self)
    rw [startNext_of_call hprog] at hcalls ⊢
    exact ⟨hs.cfg, hcalls, activityCoherent_enter hport c⟩

/-- A line of the call in progress keeps the agreement. -/
theorem hostStep_hostInv {s : State} (hs : HostInv s) (hport : s.port = none) :
    ∃ t, hostStep s = .next t ∧ HostInv t := by
  have hstep {t : State} := @hostStep_eq_next s t
  have hkeep {t : State} (h : hostStep s = .next t) : t.cfg.Legal ∧ ∀ l ∈ t.program, ∃ c, l = .call c := by
    rw [(hostStep_sameBlock h).cfg]
    exact ⟨hs.cfg, (hostStep_flows hport hs.program h).2⟩
  cases ha : s.activity with
  | none => exact ⟨_, hstep.2 ⟨hs.cfg, .inl ⟨ha, rfl⟩⟩, startNext_hostInv hs hport ha⟩
  | some a =>
    have hline := stepActivity_advances hport (ha ▸ hs.activity)
    cases hu : stepActivity a s with rw [hu] at hline
    | goto a' u =>
      have h := hstep.2 ⟨hs.cfg, .inr (.inl ⟨a, a', u, ha, hu, rfl⟩)⟩
      obtain ⟨hc, hcalls⟩ := hkeep h
      exact ⟨_, h, hc, hcalls, (activityCoherent_setActivity _).2 hline⟩
    | done r u =>
      have h := hstep.2 ⟨hs.cfg, .inr (.inr ⟨a, r, u, ha, hu, rfl⟩)⟩
      obtain ⟨hc, hcalls⟩ := hkeep h
      obtain ⟨rfl, -⟩ := hline
      exact ⟨_, h, hc, hcalls, hport⟩
    | fault f => exact hline.elim

/-- Settles O33: the operation on the port completes, the next line does not stop, and either leaves position and
registers agreeing; a launch of calls leaves the host idle. -/
theorem driverCallsNeverStop : Obligations.DriverCallsNeverStop := by
  refine ⟨fun s hs => ?step, fun c calls hc => ?launch⟩
  case step =>
    by_cases hport : s.port = none
    · obtain ⟨t, h, ht⟩ := hostStep_hostInv hs hport
      exact ⟨t, by rw [step, hport]; exact h, ht⟩
    · exact step_hostInv_of_port hs hport
  case launch =>
    refine ⟨_, launch_singleton hc _, hc, fun l hl => ?_, rfl⟩
    obtain ⟨call, -, rfl⟩ := List.mem_map.1 hl
    exact ⟨call, rfl⟩

/-! ### What a call returns -/

/-- A status other than `NoError` comes with no value (R116). -/
def Sound (r : Ret) : Prop := ∀ code, r.status = some code → code ≠ .noError → r.value = none

/-- After a line that starts at `s`: the return recorded is still that of `s`, and what the line returns is as
`sound` says. -/
def ReturnsOnly {π ρ : Type} (s : State) (sound : ρ → Prop) : Progress π ρ → Prop
  | .goto _ t => t.ret = s.ret
  | .done x t => t.ret = s.ret ∧ sound x
  | .fault _ => True

theorem returnsOnly_nest {π ρ π' ρ' : Type} {s : State} {sound : ρ → Prop} {sound' : ρ' → Prop} {place : π → π'}
    {next : ρ → State → Progress π' ρ'} {x : Progress π ρ} (hx : ReturnsOnly s sound x)
    (hnext : ∀ y t, t.ret = s.ret → sound y → ReturnsOnly s sound' (next y t)) :
    ReturnsOnly s sound' (nest place next x) := by
  cases x with
  | goto p t => exact hx
  | done y t => exact hnext y t hx.1 hx.2
  | fault f => trivial

section Returns
variable (s : State)

theorem stepConvert_returnsOnly (axis period : Byte) (p : ConvertPoint) :
    ReturnsOnly s (fun _ => True) (stepConvert axis period p s) := by
  cases p with
  | test =>
    unfold stepConvert
    dsimp only
    split
    · exact ⟨rfl, trivial⟩
    · rfl
  | tx =>
    unfold stepConvert
    dsimp only
    split
    · rfl
    · trivial
  | ret => exact ⟨rfl, trivial⟩
  | enc | sel | pulse | desel => rfl

theorem stepGet_returnsOnly (d : Dest) (p : GetPoint) : ReturnsOnly s (fun _ => True) (stepGet d p s) := by
  cases p with
  | rx0 | rx1 => exact drawByte_ret s
  | ret => exact ⟨rfl, trivial⟩
  | sel | desel | load => rfl

/-- `READ` returns a value only with `NoError` (R113). -/
theorem stepRead_returnsOnly (d : Dest) (axis period : Byte) (timeout : Word32) (p : ReadPoint) :
    ReturnsOnly s Sound (stepRead d axis period timeout p s) := by
  cases p with
  | converting q =>
    rw [stepRead_converting]
    refine returnsOnly_nest (stepConvert_returnsOnly s axis period q) fun code t ht _ => ?_
    split
    · exact ⟨ht, fun _ _ _ => rfl⟩
    · exact ht
  | test =>
    unfold stepRead
    dsimp only
    split
    · exact ⟨rfl, fun _ _ _ => rfl⟩
    · rfl
  | latch =>
    unfold stepRead
    dsimp only
    split
    · rfl
    · trivial
  | wait t =>
    unfold stepRead
    dsimp only
    split
    · exact drawWait_ret s
    · rfl
  | judge w =>
    cases w with
    | expired => exact ⟨rfl, fun _ _ _ => rfl⟩
    | ready => rfl
  | getting q =>
    rw [stepRead_getting]
    refine returnsOnly_nest (stepGet_returnsOnly s d q) fun v t ht _ => ⟨ht, ?_⟩
    rintro _ ⟨⟩ hne
    exact absurd rfl hne
  | tmo | report => rfl

/-- `READHP` returns a value only after both sub-reads, with `NoError` (R114). -/
theorem stepReadHp_returnsOnly (axis : Byte) (timeout : Word32) (p : ReadHpPoint) :
    ReturnsOnly s Sound (stepReadHp axis timeout p s) := by
  cases p with
  | low q =>
    rw [stepReadHp_low]
    refine returnsOnly_nest (stepRead_returnsOnly s .low axis 6 timeout q) fun r t ht _ => ?_
    split
    · exact ⟨ht, fun _ _ _ => rfl⟩
    · exact ht
  | high q =>
    rw [stepReadHp_high]
    refine returnsOnly_nest (stepRead_returnsOnly s .high axis 7 timeout q) fun r t ht _ => ?_
    split
    · exact ⟨ht, fun _ _ _ => rfl⟩
    · exact ht
  | fuse => rfl
  | ret =>
    unfold stepReadHp
    dsimp only
    split
    · refine ⟨rfl, ?_⟩
      rintro _ ⟨⟩ hne
      exact absurd rfl hne
    · trivial

/-- `BEGIN` returns no value (R115). -/
theorem stepBegin_returnsOnly (p : BeginPoint) : ReturnsOnly s Sound (stepBegin p s) := by
  cases p with
  | dirReady =>
    unfold stepBegin
    dsimp only
    split <;> rfl
  | reading q =>
    rw [stepBegin_reading]
    exact returnsOnly_nest (stepRead_returnsOnly s .low _ 0 0 q) fun _ _ ht _ => ⟨ht, fun _ _ _ => rfl⟩
  | dirSelect | dirReset | desel | rstIdle | busCfg => rfl

/-- `CONVERT` returns no value, and `GETRESULT` no status (R111, R112). -/
theorem stepActivity_returnsOnly (a : Activity) : ReturnsOnly s Sound (stepActivity a s) := by
  cases a with
  | convert axis period p =>
    rw [stepActivity_convert]
    exact returnsOnly_nest (stepConvert_returnsOnly s axis period p) fun _ _ ht _ => ⟨ht, fun _ _ _ => rfl⟩
  | getResult d p =>
    rw [stepActivity_getResult]
    exact returnsOnly_nest (stepGet_returnsOnly s d p) fun _ _ ht _ => ⟨ht, nofun⟩
  | read d axis period timeout p =>
    rw [stepActivity_read]
    exact returnsOnly_nest (stepRead_returnsOnly s d axis period timeout p) fun _ _ ht hr => ⟨ht, hr⟩
  | readHp axis timeout p =>
    rw [stepActivity_readHp]
    exact returnsOnly_nest (stepReadHp_returnsOnly s axis timeout p) fun _ _ ht hr => ⟨ht, hr⟩
  | begin p =>
    rw [stepActivity_begin]
    exact returnsOnly_nest (stepBegin_returnsOnly s p) fun _ _ ht hr => ⟨ht, hr⟩

end Returns

/-- A call begins with nothing returned; any other next line leaves what was. -/
theorem startNext_retInv {s : State} (hs : RetInv s) : RetInv (startNext s) := by
  match hprog : s.program with
  | [] => rw [startNext_of_nil hprog]; exact hs
  | .word w :: rest => rw [startNext_of_word hprog]; exact hs
  | .call c :: rest => rw [startNext_of_call hprog]; exact nofun

/-- Settles O35: an operation and a line that goes on leave what was returned, and a line that returns has no value
beside an error. -/
theorem stepKeepsRetInv : Obligations.StepKeepsRetInv := by
  intro s t hs h
  obtain ⟨w, i, -, -, he⟩ | ⟨-, hh⟩ := step_next h
  · have hret : t.ret = s.ret := (exec_frame he).1.ret
    rw [RetInv, hret]
    exact hs
  obtain ⟨-, ⟨-, rfl⟩ | ⟨a, a', u, -, hu, rfl⟩ | ⟨a, r, u, -, hu, rfl⟩⟩ := hostStep_eq_next.1 hh
  · exact startNext_retInv hs
  · have hline := stepActivity_returnsOnly s a
    rw [hu] at hline
    have hret : u.ret = s.ret := hline
    rw [RetInv, hret]
    exact hs
  · have hline := stepActivity_returnsOnly s a
    rw [hu] at hline
    rintro _ ⟨⟩
    exact hline.2

end Sys2Proof.Proofs
end

section
/-!
PROOF. How the driver calls run (spec/43_sequences.md R111 to R116). A sequence runs inside a caller that goes on by
its own rule when the sequence returns (R117), so each of `CONVERT`, `GETRESULT` and `READ` is run once, inside any
caller: if the caller, handed what the sequence returns, comes to a state `T`, then the sequence comes to `T`. A
program's own calls have the host as their caller.
-/
namespace Sys2Proof.Proofs
open Sys2Proof.Machine Sys2Proof.Laws

/-! ### Runs -/

theorem runsTo_refl (s : State) : RunsTo s s := ⟨0, rfl⟩

theorem runsTo_of_step {s u T : State} (hs : step s = .next u) (h : RunsTo u T) : RunsTo s T := by
  obtain ⟨n, hn⟩ := h
  refine ⟨n + 1, ?_⟩
  simp only [Host.Core.run, show Sys2Proof.core.step s = .next u from hs]
  exact hn

/-- The run goes on to `T` from where a line of the sequence in progress leaves the host. -/
def Continues (T : State) : Progress Activity Ret → Prop
  | .goto a u => RunsTo { u with activity := some a } T
  | .done r u => RunsTo { u with activity := none, ret := some r } T
  | .fault _ => False

theorem runsTo_of_continues {s T : State} {a : Activity} (hc : s.cfg.Legal) (hport : s.port = none)
    (ha : s.activity = some a) (h : Continues T (stepActivity a s)) : RunsTo s T := by
  have hstep : step s = hostStep s := by rw [step, hport]
  cases hu : stepActivity a s with rw [hu] at h
  | goto a' u => exact runsTo_of_step (hstep.trans (hostStep_eq_next.2 ⟨hc, .inr (.inl ⟨a, a', u, ha, hu, rfl⟩)⟩)) h
  | done r u => exact runsTo_of_step (hstep.trans (hostStep_eq_next.2 ⟨hc, .inr (.inr ⟨a, r, u, ha, hu, rfl⟩)⟩)) h
  | fault f => exact h.elim

/-! ### Sequences within a caller -/

/-- `t` with the host in a call, nothing on the port: the lines after the call, the position and the record so far. -/
def running (t : State) (rest : List Line) (a : Activity) (tr : List Event) (is : List Instr) : State :=
  { t with port := none, program := rest, activity := some a, ret := none, trace := tr, issued := is }

/-- Under the configuration `c` the host at `place p` runs the sequence of `line`, and goes on by `next` when that
returns. -/
structure Embeds {π ρ : Type} (c : Config) (line : π → State → Progress π ρ) (place : π → Activity)
    (next : ρ → State → Progress Activity Ret) : Prop where
  legal : c.Legal
  step : ∀ p s, s.cfg = c → stepActivity (place p) s = nest place next (line p s)

theorem nest_nest {π ρ π' ρ' π'' ρ'' : Type} (place : π → π') (next : ρ → State → Progress π' ρ')
    (place' : π' → π'') (next' : ρ' → State → Progress π'' ρ'') (x : Progress π ρ) :
    nest place' next' (nest place next x) =
      nest (fun p => place' (place p)) (fun y s => nest place' next' (next y s)) x := by
  cases x <;> rfl

/-- A sequence called by an embedded one is embedded (R117). -/
theorem embeds_nest {π ρ π' ρ' : Type} {c : Config} {line : π → State → Progress π ρ}
    {inner : π' → State → Progress π' ρ'} {place : π → Activity} {next : ρ → State → Progress Activity Ret}
    {place' : π' → π} {next' : ρ' → State → Progress π ρ} (hE : Embeds c line place next)
    (hline : ∀ p s, s.cfg = c → line (place' p) s = nest place' next' (inner p s)) :
    Embeds c inner (fun p => place (place' p)) (fun y s => nest place next (next' y s)) where
  legal := hE.legal
  step p s hs := by rw [hE.step _ s hs, hline p s hs, nest_nest]

section Lines
variable {π ρ : Type} {c : Config} {t T : State} {line : π → State → Progress π ρ} {place : π → Activity}
  {next : ρ → State → Progress Activity Ret} {rest : List Line} {tr : List Event} {is : List Instr} {p p' : π}
  (hE : Embeds c line place next) (hcfg : t.cfg = c)
include hE hcfg

theorem running_line (h : Continues T (nest place next (line p (running t rest (place p) tr is)))) :
    RunsTo (running t rest (place p) tr is) T :=
  runsTo_of_continues (a := place p) (hcfg ▸ hE.legal) rfl rfl
    (by rw [hE.step p (running t rest (place p) tr is) hcfg]; exact h)

/-- A line that goes on. -/
theorem running_goto {u : State} {tr' : List Event} {is' : List Instr}
    (hline : line p (running t rest (place p) tr is) = .goto p' (running u rest (place p) tr' is'))
    (h : RunsTo (running u rest (place p') tr' is') T) : RunsTo (running t rest (place p) tr is) T :=
  running_line hE hcfg (by rw [hline]; exact h)

/-- A line that emits an event, and may draw from the environment. -/
theorem running_emit {u : State} {e : Event}
    (hline : line p (running t rest (place p) tr is) = .goto p' ((running u rest (place p) tr is).emit e))
    (h : RunsTo (running u rest (place p') (tr ++ [e]) is) T) : RunsTo (running t rest (place p) tr is) T :=
  running_goto hE hcfg hline h

/-- A line that issues an operation, and the operation. -/
theorem running_issue {i : Instr} {u : State}
    (hline : line p (running t rest (place p) tr is) = .goto p' ((running t rest (place p) tr is).issue i))
    (hexec : exec i (running t rest (place p') tr (is ++ [i])) = .next (running u rest (place p') tr (is ++ [i])))
    (h : RunsTo (running u rest (place p') tr (is ++ [i])) T) : RunsTo (running t rest (place p) tr is) T :=
  running_line hE hcfg (by
    rw [hline]
    exact runsTo_of_step ((step_of_port rfl (decode_encode i)).trans hexec) h)

/-- A line that returns to the caller. -/
theorem running_return {x : ρ}
    (hline : line p (running t rest (place p) tr is) = .done x (running t rest (place p) tr is))
    (h : Continues T (next x (running t rest (place p) tr is))) : RunsTo (running t rest (place p) tr is) T :=
  running_line hE hcfg (by rw [hline]; exact h)

end Lines

/-! ### The environment's values -/

/-- The next result byte is `b`, whatever the rest of the state, and leaves `d'` to come (R15 a). -/
def DrawsByte (d : Draws) (b : Byte) (d' : Draws) : Prop :=
  ∀ s : State, s.draws = d → s.drawByte = (b, { s with draws := d' })

/-- The next wait ends in `w`, whatever the rest of the state, and leaves `d'` to come (R15 b). -/
def DrawsWait (d : Draws) (w : WaitOutcome) (d' : Draws) : Prop :=
  ∀ s : State, s.draws = d → s.drawWait = (w, { s with draws := d' })

/-- The next two result bytes are `b0` and `b1`. -/
def GivesBytes (d : Draws) (b0 b1 : Byte) (d' : Draws) : Prop :=
  ∃ d1, DrawsByte d b0 d1 ∧ DrawsByte d1 b1 d'

/-- The ready line is seen in time, or not wired. -/
def GivesReady (wired : Bool) (d d' : Draws) : Prop :=
  if wired then DrawsWait d .ready d' else d' = d

/-- What a `READ` needs to succeed: the ready line if it is wired, and two result bytes. -/
def GivesSample (wired : Bool) (d : Draws) (b0 b1 : Byte) (d' : Draws) : Prop :=
  ∃ d1, GivesReady wired d d1 ∧ GivesBytes d1 b0 b1 d'

theorem drawByte_running {t : State} {b : Byte} {d' : Draws} (h : DrawsByte t.draws b d') (rest : List Line)
    (a : Activity) (tr : List Event) (is : List Instr) :
    (running t rest a tr is).drawByte = (b, running { t with draws := d' } rest a tr is) :=
  h _ rfl

theorem drawWait_running {t : State} {w : WaitOutcome} {d' : Draws} (h : DrawsWait t.draws w d') (rest : List Line)
    (a : Activity) (tr : List Event) (is : List Instr) :
    (running t rest a tr is).drawWait = (w, running { t with draws := d' } rest a tr is) :=
  h _ rfl

theorem drawsByte_listed {b : Byte} {bs : List Byte} {ws : List WaitOutcome} {n : Nat} :
    DrawsByte ⟨b :: bs, ws, n⟩ b ⟨bs, ws, n⟩ := fun s hs => by
  rw [drawByte_cons s b bs (by rw [hs]), hs]

theorem drawsWait_listed {w : WaitOutcome} {bs : List Byte} {ws : List WaitOutcome} {n : Nat} :
    DrawsWait ⟨bs, w :: ws, n⟩ w ⟨bs, ws, n⟩ := fun s hs => by
  rw [drawWait_cons s w ws (by rw [hs]), hs]

theorem exists_drawsByte (d : Draws) : ∃ b d', DrawsByte d b d' := by
  obtain ⟨bs, ws, n⟩ := d
  cases bs with
  | nil => exact ⟨_, _, fun s hs => by rw [State.drawByte, hs]⟩
  | cons b bs => exact ⟨_, _, drawsByte_listed⟩

theorem exists_drawsWait (d : Draws) : ∃ w d', DrawsWait d w d' := by
  obtain ⟨bs, ws, n⟩ := d
  cases ws with
  | nil => exact ⟨_, _, fun s hs => by rw [State.drawWait, hs]⟩
  | cons w ws => exact ⟨_, _, drawsWait_listed⟩

theorem exists_givesBytes (d : Draws) : ∃ b0 b1 d', GivesBytes d b0 b1 d' := by
  obtain ⟨b0, d1, h0⟩ := exists_drawsByte d
  obtain ⟨b1, d', h1⟩ := exists_drawsByte d1
  exact ⟨b0, b1, d', d1, h0, h1⟩

theorem exists_givesSample_of_ready {wired : Bool} {d d1 : Draws} (h : GivesReady wired d d1) :
    ∃ b0 b1 d', GivesSample wired d b0 b1 d' := by
  obtain ⟨b0, b1, d', hb⟩ := exists_givesBytes d1
  exact ⟨b0, b1, d', d1, h, hb⟩

/-- Whatever the environment does, it gives a sample, or a wired wait expires. -/
theorem sample_or_expired (wired : Bool) (d : Draws) :
    (∃ b0 b1 d', GivesSample wired d b0 b1 d') ∨ (wired = true ∧ ∃ d', DrawsWait d .expired d') := by
  cases wired with
  | false => exact .inl (exists_givesSample_of_ready rfl)
  | true =>
    obtain ⟨w, d', hw⟩ := exists_drawsWait d
    cases w with
    | ready => exact .inl (exists_givesSample_of_ready hw)
    | expired => exact .inr ⟨rfl, d', hw⟩

theorem exists_drawsWait_of_head {d : Draws} {w : WaitOutcome} (h : d.waits.head? = some w) :
    ∃ d', DrawsWait d w d' := by
  obtain ⟨bs, ws, n⟩ := d
  obtain ⟨ws', hws⟩ := List.head?_eq_some_iff.1 h
  cases hws
  exact ⟨_, drawsWait_listed⟩

/-- With the ready line not wired, or seen first, a sample is given. -/
theorem exists_givesSample {wired : Bool} {d : Draws} (h : wired = false ∨ d.waits.head? = some .ready) :
    ∃ b0 b1 d', GivesSample wired d b0 b1 d' := by
  cases wired with
  | false => exact exists_givesSample_of_ready rfl
  | true =>
    obtain ⟨d1, hw⟩ := exists_drawsWait_of_head (h.resolve_left nofun)
    exact exists_givesSample_of_ready hw

theorem givesSample_listed {wired : Bool} {b0 b1 : Byte} {bs : List Byte} {ws : List WaitOutcome} {n : Nat} :
    GivesSample wired ⟨b0 :: b1 :: bs, (if wired then [.ready] else []) ++ ws, n⟩ b0 b1 ⟨bs, ws, n⟩ := by
  refine ⟨⟨b0 :: b1 :: bs, ws, n⟩, ?_, _, drawsByte_listed, drawsByte_listed⟩
  cases wired with
  | false => rfl
  | true => exact drawsWait_listed

/-- The environment's values where it supplies the listed ones. -/
theorem draws_of_supplies {s : State} {waits : List WaitOutcome} {bytes : List Byte} {left : Draws}
    (h : s.Supplies waits bytes left) :
    s.draws = ⟨bytes ++ left.bytes, (if s.cfg.readyWired then waits else []) ++ left.waits, left.count⟩ := by
  obtain ⟨hbytes, hcount, hwaits⟩ := h
  rw [← hbytes, ← hcount, ← hwaits]

theorem givesBytes_of_supplies {s : State} {b0 b1 : Byte} {left : Draws} (h : s.Supplies [] [b0, b1] left) :
    GivesBytes s.draws b0 b1 left := by
  rw [draws_of_supplies h, ite_self]
  exact ⟨_, drawsByte_listed, drawsByte_listed⟩

theorem givesSample_of_supplies {s : State} {b0 b1 : Byte} {left : Draws} (h : s.Supplies [.ready] [b0, b1] left) :
    GivesSample s.cfg.readyWired s.draws b0 b1 left := by
  rw [draws_of_supplies h]
  exact givesSample_listed

theorem drawsExpired_of_supplies {s : State} {left : Draws} (hw : s.cfg.readyWired = true)
    (h : s.Supplies [.expired] [] left) : DrawsWait s.draws .expired left := by
  rw [draws_of_supplies h, if_pos hw]
  exact drawsWait_listed

theorem givesSamples_of_supplies {s : State} {l0 l1 h0 h1 : Byte} {left : Draws}
    (h : s.Supplies [.ready, .ready] [l0, l1, h0, h1] left) :
    ∃ d1, GivesSample s.cfg.readyWired s.draws l0 l1 d1 ∧ GivesSample s.cfg.readyWired d1 h0 h1 left := by
  rw [draws_of_supplies h]
  cases s.cfg.readyWired with
  | false => exact ⟨_, givesSample_listed (wired := false), givesSample_listed (wired := false)⟩
  | true => exact ⟨_, givesSample_listed (wired := true), givesSample_listed (wired := true)⟩

theorem sampleThenExpired_of_supplies {s : State} {b0 b1 : Byte} {left : Draws} (hw : s.cfg.readyWired = true)
    (h : s.Supplies [.ready, .expired] [b0, b1] left) :
    ∃ d1, GivesSample s.cfg.readyWired s.draws b0 b1 d1 ∧ DrawsWait d1 .expired left := by
  rw [draws_of_supplies h, hw]
  exact ⟨_, givesSample_listed (wired := true), drawsWait_listed⟩

/-! ### The operations in a call -/

section Status
variable {c : Config} {axis period : Byte}

theorem encStatus_of_not_axisValid (ha : ¬ axisValid c axis) : encStatus c axis period = .badAxis :=
  if_pos ha

theorem encStatus_of_not_periodValid (ha : axisValid c axis) (hp : ¬ periodValid period) :
    encStatus c axis period = .badPeriod := by
  rw [encStatus, if_neg (not_not.2 ha), if_pos hp]

theorem encStatus_of_valid (ha : axisValid c axis) (hp : periodValid period) :
    encStatus c axis period = .noError := by
  rw [encStatus, if_neg (not_not.2 ha), if_neg (not_not.2 hp)]

theorem encStatus_eq_noError_iff : encStatus c axis period = .noError ↔ axisValid c axis ∧ periodValid period := by
  refine ⟨fun h => ?_, fun ⟨ha, hp⟩ => encStatus_of_valid ha hp⟩
  by_cases ha : axisValid c axis
  · by_cases hp : periodValid period
    · exact ⟨ha, hp⟩
    · cases (encStatus_of_not_periodValid ha hp).symm.trans h
  · cases (encStatus_of_not_axisValid ha).symm.trans h

/-- `ENC` of refused operands (R80, R81). -/
theorem execEnc_of_refused {s : State} (hc : s.cfg.Legal) (hne : encStatus s.cfg axis period ≠ .noError) :
    execEnc axis period s = .next { s with st := encStatus s.cfg axis period, cmd := none } := by
  by_cases ha : axisValid s.cfg axis
  · have hp : ¬ periodValid period := fun hp => hne (encStatus_of_valid ha hp)
    rw [encStatus_of_not_periodValid ha hp]
    exact execEnc_of_not_periodValid hc ha hp
  · rw [encStatus_of_not_axisValid ha]
    exact execEnc_of_not_axisValid hc ha

end Status

section Exec
variable {t : State} {rest : List Line} {a : Activity} {tr : List Event} {is : List Instr} (hc : t.cfg.Legal)
include hc

theorem execEnc_running_of_valid {axis period : Byte} (ha : axisValid t.cfg axis) (hp : periodValid period) :
    exec (.enc axis period) (running t rest a tr is) =
      .next (running { t with st := .noError, cmd := some (commandByte t.cfg axis period) } rest a tr is) :=
  execEnc_of_valid (s := running t rest a tr is) hc ha hp

theorem execEnc_running_of_refused {axis period : Byte} (hne : encStatus t.cfg axis period ≠ .noError) :
    exec (.enc axis period) (running t rest a tr is) =
      .next (running { t with st := encStatus t.cfg axis period, cmd := none } rest a tr is) :=
  execEnc_of_refused (s := running t rest a tr is) hc hne

theorem execTmo_running {period : Byte} {timeout u : Word32} (h : effectiveTimeout period timeout = some u) :
    exec (.tmo period timeout) (running t rest a tr is) =
      .next (running { t with st := .noError, tmo := some u } rest a tr is) :=
  execTmo_of_some (s := running t rest a tr is) hc h

theorem execWaitr_running (x : Bool) :
    exec (.waitr x) (running t rest a tr is) =
      .next (running { t with st := if x then .timeout else .noError } rest a tr is) :=
  execWaitr_of_legal (s := running t rest a tr is) hc x

theorem exec_loadInstr_running (d : Dest) (b0 b1 : Byte) :
    exec (loadInstr d b0 b1) (running t rest a tr is) =
      .next (running (t.withSample d (sampleOf b0 b1)) rest a tr is) := by
  cases d <;> exact requireConfig_of_legal hc _

theorem execFuse_running {l h : Half} (hl : t.low = some l) (hh : t.high = some h) :
    exec .fuse (running t rest a tr is) = .next (running { t with
      res := some (BitVec.ofInt 32 (fuseValue t.cfg l.toInt h.toInt)), low := none, high := none } rest a tr is) :=
  execFuse_of_valid (s := running t rest a tr is) hc hl hh

end Exec

/-! ### `CONVERT` in a caller -/

section Convert
variable {c : Config} {t T : State} {axis period : Byte} {place : ConvertPoint → Activity}
  {next : Status → State → Progress Activity Ret} {rest : List Line} {tr : List Event} {is : List Instr}
  (hE : Embeds c (stepConvert axis period) place next) (hcfg : t.cfg = c)
include hE hcfg

/-- A refused `ENC` ends `CONVERT` at the test (R111). -/
theorem convert_refused {e : Status} (he : encStatus c axis period = e) (hne : e ≠ .noError)
    (h : ∀ a, Continues T (next e (running { t with st := e, cmd := none } rest a tr (is ++ [.enc axis period])))) :
    RunsTo (running t rest (place .enc) tr is) T := by
  subst hcfg he
  refine running_issue hE rfl rfl (execEnc_running_of_refused hE.legal hne) ?_
  exact running_return hE rfl (if_pos hne) (h _)

/-- A successful `ENC` and the byte in its frame (R111). -/
theorem convert_ok {b : Byte} (ha : axisValid c axis) (hp : periodValid period)
    (hbyte : commandByte c axis period = b)
    (h : ∀ a, Continues T (next .noError (running { t with st := .noError, cmd := some b } rest a
      (tr ++ convertTrace b) (is ++ [.enc axis period])))) :
    RunsTo (running t rest (place .enc) tr is) T := by
  subst hcfg hbyte
  refine running_issue hE rfl rfl (execEnc_running_of_valid hE.legal ha hp) ?_
  refine running_goto hE rfl (p' := .sel) rfl ?_
  refine running_emit hE rfl (p' := .pulse) rfl ?_
  refine running_emit hE rfl (p' := .tx) rfl ?_
  refine running_emit hE rfl (p' := .desel) rfl ?_
  refine running_emit hE rfl (p' := .ret) rfl ?_
  refine running_return hE rfl rfl ?_
  simpa only [convertTrace, List.append_assoc, List.cons_append, List.nil_append] using h _

end Convert

/-! ### `GETRESULT` in a caller -/

theorem withSample_cfg (s : State) (d : Dest) (v : Half) : (s.withSample d v).cfg = s.cfg := by
  cases d <;> rfl

theorem withSample_port (s : State) (d : Dest) (v : Half) : (s.withSample d v).port = s.port := by
  cases d <;> rfl

/-- Two bytes in their frame, then the load (R112). -/
theorem get_ok {c : Config} {t T : State} {d : Dest} {place : GetPoint → Activity}
    {next : Int → State → Progress Activity Ret} {rest : List Line} {tr : List Event} {is : List Instr}
    {b0 b1 : Byte} {left : Draws} (hE : Embeds c (stepGet d) place next) (hcfg : t.cfg = c)
    (hd : GivesBytes t.draws b0 b1 left)
    (h : ∀ a, Continues T (next (sampleOf b0 b1).toInt
      (running (({ t with draws := left } : State).withSample d (sampleOf b0 b1)) rest a (tr ++ getTrace b0 b1)
        (is ++ [loadInstr d b0 b1])))) :
    RunsTo (running t rest (place .sel) tr is) T := by
  obtain ⟨d1, h0, h1⟩ := hd
  subst hcfg
  refine running_emit hE rfl (p' := .rx0) rfl ?_
  refine running_emit hE rfl (u := { t with draws := d1 }) (p' := .rx1 b0)
    (by rw [stepGet, drawByte_running h0]) ?_
  refine running_emit hE rfl (u := { t with draws := left }) (p' := .desel b0 b1)
    (by rw [stepGet, drawByte_running (t := { t with draws := d1 }) h1]) ?_
  refine running_emit hE rfl (p' := .load b0 b1) rfl ?_
  refine running_issue hE rfl rfl (exec_loadInstr_running (t := { t with draws := left }) hE.legal d b0 b1) ?_
  refine running_return hE (withSample_cfg _ _ _) rfl ?_
  simpa only [getTrace, List.append_assoc, List.cons_append, List.nil_append] using h _

/-! ### `READ` in a caller -/

section Read
variable {c : Config} {t T : State} {d : Dest} {axis period : Byte} {timeout : Word32} {place : ReadPoint → Activity}
  {next : Ret → State → Progress Activity Ret} {rest : List Line} {tr : List Event} {is : List Instr}
  (hE : Embeds c (stepRead d axis period timeout) place next) (hcfg : t.cfg = c)
include hE hcfg

/-- A refused `CONVERT` ends `READ` (R113, R116). -/
theorem read_refused {e : Status} (he : encStatus c axis period = e) (hne : e ≠ .noError)
    (h : ∀ a, Continues T (next { status := some e, value := none }
      (running { t with st := e, cmd := none } rest a tr (is ++ [.enc axis period])))) :
    RunsTo (running t rest (place (.converting .enc)) tr is) T := by
  have hconvert := embeds_nest hE fun p s _ => stepRead_converting d axis period timeout s p
  refine convert_refused hconvert hcfg he hne fun a => ?_
  rw [if_pos hne]
  exact h a

/-- The polled wait and the record of its outcome (R92, R93, R113). -/
theorem wait_polled {u : Word32} {w : WaitOutcome} {left : Draws} (hw : c.readyWired = true)
    (hd : DrawsWait t.draws w left)
    (h : RunsTo (running { t with st := if w = .expired then .timeout else .noError, draws := left } rest
      (place (.judge w)) (tr ++ [.poll u]) (is ++ [.waitr (w = .expired)])) T) :
    RunsTo (running t rest (place (.wait u)) tr is) T := by
  have hwired : t.cfg.readyWired = true := hcfg ▸ hw
  refine running_emit hE hcfg (u := { t with draws := left }) (p' := .report w) (e := .poll u) ?_ ?_
  · rw [stepRead, drawWait_running hd]
    exact if_pos hwired
  · refine running_issue hE hcfg rfl (execWaitr_running (t := { t with draws := left }) (hcfg ▸ hE.legal) _) ?_
    simpa only [decide_eq_true_eq] using h

section Wait
variable {b : Byte} {u : Word32} (ha : axisValid c axis) (hp : periodValid period)
  (hbyte : commandByte c axis period = b) (hu : effectiveTimeout period timeout = some u)
include ha hp hbyte hu

/-- With valid operands `READ` comes to the wait with its command sent (R113). -/
theorem read_to_wait
    (h : RunsTo (running { t with st := .noError, cmd := some b, tmo := some u } rest (place (.wait u))
      (tr ++ convertTrace b) (is ++ [.enc axis period, .tmo period timeout])) T) :
    RunsTo (running t rest (place (.converting .enc)) tr is) T := by
  have hconvert := embeds_nest hE fun p s _ => stepRead_converting d axis period timeout s p
  refine convert_ok hconvert hcfg ha hp hbyte fun a => ?_
  rw [if_neg (not_not.2 rfl)]
  change RunsTo (running { t with st := .noError, cmd := some b } rest (place .tmo) (tr ++ convertTrace b)
    (is ++ [.enc axis period])) T
  refine running_issue hE hcfg rfl (execTmo_running (hcfg ▸ hE.legal) hu) ?_
  refine running_goto hE hcfg (p' := .latch) rfl ?_
  refine running_goto hE hcfg (p' := .wait u) rfl ?_
  rw [List.append_assoc]
  exact h

/-- An expired wait ends `READ` after `WAITR` (R113, R116). -/
theorem read_expired {left : Draws} (hw : c.readyWired = true) (hd : DrawsWait t.draws .expired left)
    (h : ∀ a, Continues T (next { status := some .timeout, value := none }
      (running { t with st := .timeout, cmd := some b, tmo := some u, draws := left } rest a
        (tr ++ convertTrace b ++ [.poll u]) (is ++ [.enc axis period, .tmo period timeout, .waitr true])))) :
    RunsTo (running t rest (place (.converting .enc)) tr is) T := by
  refine read_to_wait hE hcfg ha hp hbyte hu ?_
  refine wait_polled (t := { t with st := .noError, cmd := some b, tmo := some u }) hE hcfg hw hd ?_
  refine running_return hE hcfg rfl ?_
  rw [List.append_assoc is]
  exact h _

/-- With a sample given `READ` ends in its destination (R113). -/
theorem read_ok {b0 b1 : Byte} {left : Draws} (hd : GivesSample c.readyWired t.draws b0 b1 left)
    (h : ∀ a, Continues T (next { status := some .noError, value := some (sampleOf b0 b1).toInt }
      (running (({ t with st := .noError, cmd := some b, tmo := some u, draws := left } : State).withSample d
        (sampleOf b0 b1)) rest a (tr ++ readTrace c.readyWired b u b0 b1)
        (is ++ readOps c.readyWired d axis period timeout b0 b1)))) :
    RunsTo (running t rest (place (.converting .enc)) tr is) T := by
  obtain ⟨d1, hready, hbytes⟩ := hd
  have hget : Embeds c (stepGet d) (fun p => place (.getting p))
      (fun v s => next { status := some .noError, value := some v } s) :=
    embeds_nest hE fun p s _ => stepRead_getting d axis period timeout s p
  refine read_to_wait hE hcfg ha hp hbyte hu ?_
  cases hw : c.readyWired with rw [hw] at hready h
  | true =>
    refine wait_polled (t := { t with st := .noError, cmd := some b, tmo := some u }) hE hcfg hw hready ?_
    refine running_goto hE hcfg (p' := .getting .sel) rfl ?_
    refine get_ok (t := { t with st := .noError, cmd := some b, tmo := some u, draws := d1 }) hget hcfg hbytes
      fun a => ?_
    simpa only [readTrace, readOps, waitEvent, if_true, reduceCtorEq, decide_false, List.append_assoc,
      List.cons_append, List.nil_append] using h a
  | false =>
    subst hready
    refine running_emit hE hcfg (u := { t with st := .noError, cmd := some b, tmo := some u }) (p' := .getting .sel)
      (if_neg (by rw [Bool.not_eq_true]; exact hcfg ▸ hw)) ?_
    refine get_ok (t := { t with st := .noError, cmd := some b, tmo := some u }) hget hcfg hbytes fun a => ?_
    simpa only [readTrace, readOps, waitEvent, Bool.false_eq_true, if_false, List.append_assoc, List.cons_append,
      List.nil_append] using h a

end Wait
end Read

end Sys2Proof.Proofs
end

section
/-!
PROOF. The statements of spec/43_sequences.md R111 to R116 and R152: the five calls as the host's own, each from an
idle host. What a call runs to is said of draws as relations, so that it covers both the values a statement lists and
whatever the environment gives after `BEGIN`.
-/
namespace Sys2Proof.Proofs
open Sys2Proof.Machine Sys2Proof.Laws

/-! ### A call of an idle host -/

/-- An idle host begins its next call with an empty record (R110). -/
theorem runsTo_of_call {s T : State} {call : Call} {rest : List Line} (hc : s.cfg.Legal)
    (hready : s.ReadyFor call rest) (h : RunsTo (running s rest (enter call) [] []) T) : RunsTo s T := by
  obtain ⟨hport, hact, hprog⟩ := hready
  refine runsTo_of_step (step_of_idle hc hport hact) ?_
  rw [startNext_of_call hprog]
  rw [running, ← hport] at h
  exact h

/-- A return of the host's own call ends it. -/
theorem continues_done {t : State} {rest : List Line} {a : Activity} {tr : List Event} {is : List Instr} {r : Ret}
    (hport : t.port = none) : Continues (t.ended rest r tr is) (.done r (running t rest a tr is)) := by
  rw [State.ended, hport]
  exact runsTo_refl _

section Embeds
variable {c : Config} (hc : c.Legal) (d : Dest) (axis period : Byte) (timeout : Word32)
include hc

theorem embeds_convert : Embeds c (stepConvert axis period) (.convert axis period)
    (fun code s => .done { status := some code, value := none } s) :=
  ⟨hc, fun p s _ => stepActivity_convert axis period s p⟩

theorem embeds_getResult : Embeds c (stepGet d) (.getResult d)
    (fun v s => .done { status := none, value := some v } s) :=
  ⟨hc, fun p s _ => stepActivity_getResult d s p⟩

theorem embeds_read : Embeds c (stepRead d axis period timeout) (.read d axis period timeout) .done :=
  ⟨hc, fun p s _ => stepActivity_read d axis period timeout s p⟩

theorem embeds_readHp : Embeds c (stepReadHp axis timeout) (.readHp axis timeout) .done :=
  ⟨hc, fun p s _ => stepActivity_readHp axis timeout s p⟩

theorem embeds_begin : Embeds c stepBegin .begin .done :=
  ⟨hc, fun p s _ => stepActivity_begin s p⟩

end Embeds

/-! ### `CONVERT` and `GETRESULT` -/

section Calls
variable {s : State} {rest : List Line} (hc : s.cfg.Legal)
include hc

theorem convertCall_refused {axis period : Byte} {e : Status} (hready : s.ReadyFor (.convert axis period) rest)
    (he : encStatus s.cfg axis period = e) (hne : e ≠ .noError) :
    RunsTo s (({ s with st := e, cmd := none } : State).ended rest
      { status := some e, value := none } [] [.enc axis period]) :=
  runsTo_of_call hc hready
    (convert_refused (embeds_convert hc axis period) rfl he hne fun _ => continues_done hready.1)

theorem convertCall_ok {axis period b : Byte} (hready : s.ReadyFor (.convert axis period) rest)
    (ha : axisValid s.cfg axis) (hp : periodValid period) (hbyte : commandByte s.cfg axis period = b) :
    RunsTo s (({ s with st := .noError, cmd := some b } : State).ended rest
      { status := some .noError, value := none } (convertTrace b) [.enc axis period]) :=
  runsTo_of_call hc hready
    (convert_ok (embeds_convert hc axis period) rfl ha hp hbyte fun _ => continues_done hready.1)

theorem getCall_ok {d : Dest} {b0 b1 : Byte} {left : Draws} (hready : s.ReadyFor (.getResult d) rest)
    (hd : GivesBytes s.draws b0 b1 left) :
    RunsTo s ((({ s with draws := left } : State).withSample d (sampleOf b0 b1)).ended rest
      { status := none, value := some (sampleOf b0 b1).toInt } (getTrace b0 b1) [loadInstr d b0 b1]) :=
  runsTo_of_call hc hready
    (get_ok (embeds_getResult hc d) rfl hd fun _ => continues_done ((withSample_port _ _ _).trans hready.1))

/-! ### `READ` -/

section Read
variable {d : Dest} {axis period : Byte} {timeout : Word32}
  (hready : s.ReadyFor (.read d axis period timeout) rest)
include hready

theorem readCall_refused {e : Status} (he : encStatus s.cfg axis period = e) (hne : e ≠ .noError) :
    RunsTo s (({ s with st := e, cmd := none } : State).ended rest
      { status := some e, value := none } [] [.enc axis period]) :=
  runsTo_of_call hc hready
    (read_refused (embeds_read hc d axis period timeout) rfl he hne fun _ => continues_done hready.1)

variable {u : Word32} {left : Draws} (ha : axisValid s.cfg axis) (hp : periodValid period)
  (hu : effectiveTimeout period timeout = some u)
include ha hp hu

theorem readCall_expired (hw : s.cfg.readyWired = true) (hd : DrawsWait s.draws .expired left) :
    RunsTo s (({ s with
        st := .timeout
        cmd := some (commandByte s.cfg axis period)
        tmo := some u
        draws := left } : State).ended rest
      { status := some .timeout, value := none } (convertTrace (commandByte s.cfg axis period) ++ [.poll u])
      [.enc axis period, .tmo period timeout, .waitr true]) :=
  runsTo_of_call hc hready
    (read_expired (embeds_read hc d axis period timeout) rfl ha hp rfl hu hw hd fun _ => continues_done hready.1)

theorem readCall_ok {b0 b1 : Byte} (hd : GivesSample s.cfg.readyWired s.draws b0 b1 left) :
    RunsTo s ((({ s with
        st := .noError
        cmd := some (commandByte s.cfg axis period)
        tmo := some u
        draws := left } : State).withSample d (sampleOf b0 b1)).ended rest
      { status := some .noError, value := some (sampleOf b0 b1).toInt }
      (readTrace s.cfg.readyWired (commandByte s.cfg axis period) u b0 b1)
      (readOps s.cfg.readyWired d axis period timeout b0 b1)) :=
  runsTo_of_call hc hready
    (read_ok (embeds_read hc d axis period timeout) rfl ha hp rfl hu hd fun _ =>
      continues_done ((withSample_port _ _ _).trans hready.1))

end Read

end Calls

/-! ### `READHP` -/

/-- With both samples valid `FUSE` and the return of its result end `READHP` (R114). -/
theorem readHp_fuse_ok {t : State} {rest : List Line} {axis : Byte} {timeout : Word32} {tr : List Event}
    {is : List Instr} {l h : Half} (hc : t.cfg.Legal) (hport : t.port = none) (hl : t.low = some l)
    (hh : t.high = some h) :
    RunsTo (running t rest (.readHp axis timeout .fuse) tr is)
      (({ t with
          res := some (BitVec.ofInt 32 (fuseValue t.cfg l.toInt h.toInt)), low := none, high := none } : State).ended
        rest { status := some .noError, value := some (BitVec.ofInt 32 (fuseValue t.cfg l.toInt h.toInt)).toInt }
        tr (is ++ [.fuse])) := by
  have hE := embeds_readHp hc axis timeout
  refine running_issue hE rfl rfl (execFuse_running hc hl hh) ?_
  exact running_return hE rfl rfl (continues_done hport)

/-- `s` after a first sub-read of `READHP` that succeeded: the command of period code 6, its timeout, and the fresh low
sample (R114). -/
def lowRead (s : State) (axis : Byte) (t6 : Word32) (l0 l1 : Byte) (d1 : Draws) : State :=
  { s with
    st := .noError
    cmd := some (commandByte s.cfg axis 6)
    tmo := some t6
    low := some (sampleOf l0 l1)
    draws := d1 }

section ReadHp
variable {s : State} {rest : List Line} (hc : s.cfg.Legal) {axis : Byte} {timeout : Word32}
  (hready : s.ReadyFor (.readHp axis timeout) rest)
include hc hready

theorem readHpCall_refused (ha : ¬ axisValid s.cfg axis) :
    RunsTo s (({ s with st := .badAxis, cmd := none } : State).ended rest
      { status := some .badAxis, value := none } [] [.enc axis 6]) :=
  runsTo_of_call hc hready
    (read_refused (embeds_nest (embeds_readHp hc axis timeout) fun p s _ => stepReadHp_low axis timeout s p) rfl
      (encStatus_of_not_axisValid ha) nofun fun _ => continues_done hready.1)

variable {t6 : Word32} (ha : axisValid s.cfg axis) (h6 : effectiveTimeout 6 timeout = some t6)
include ha h6

theorem readHpCall_expired_low {left : Draws} (hw : s.cfg.readyWired = true)
    (hd : DrawsWait s.draws .expired left) :
    RunsTo s (({ s with
        st := .timeout
        cmd := some (commandByte s.cfg axis 6)
        tmo := some t6
        draws := left } : State).ended rest
      { status := some .timeout, value := none } (convertTrace (commandByte s.cfg axis 6) ++ [.poll t6])
      [.enc axis 6, .tmo 6 timeout, .waitr true]) :=
  runsTo_of_call hc hready
    (read_expired (embeds_nest (embeds_readHp hc axis timeout) fun p s _ => stepReadHp_low axis timeout s p) rfl
      ha (by decide) rfl h6 hw hd fun _ => continues_done hready.1)

/-- The first sub-read leaves its sample in `LOW` and the second one to run (R114). -/
theorem readHp_to_high {T : State} {l0 l1 : Byte} {d1 : Draws}
    (hd : GivesSample s.cfg.readyWired s.draws l0 l1 d1)
    (h : RunsTo (running (lowRead s axis t6 l0 l1 d1) rest (.readHp axis timeout (.high (.converting .enc)))
      (readTrace s.cfg.readyWired (commandByte s.cfg axis 6) t6 l0 l1)
      (readOps s.cfg.readyWired .low axis 6 timeout l0 l1)) T) : RunsTo s T :=
  runsTo_of_call hc hready
    (read_ok (embeds_nest (embeds_readHp hc axis timeout) fun p s _ => stepReadHp_low axis timeout s p) rfl
      ha (by decide) rfl h6 hd fun _ => h)

variable {t7 : Word32} {l0 l1 : Byte} {d1 left : Draws} (h7 : effectiveTimeout 7 timeout = some t7)
  (hl : GivesSample s.cfg.readyWired s.draws l0 l1 d1)
include h7 hl

theorem readHpCall_expired_high (hw : s.cfg.readyWired = true) (hd : DrawsWait d1 .expired left) :
    RunsTo s (({ s with
        st := .timeout
        cmd := some (commandByte s.cfg axis 7)
        tmo := some t7
        low := some (sampleOf l0 l1)
        draws := left } : State).ended rest
      { status := some .timeout, value := none }
      (readTrace s.cfg.readyWired (commandByte s.cfg axis 6) t6 l0 l1 ++
        convertTrace (commandByte s.cfg axis 7) ++ [.poll t7])
      (readOps s.cfg.readyWired .low axis 6 timeout l0 l1 ++ [.enc axis 7, .tmo 7 timeout, .waitr true])) :=
  readHp_to_high hc hready ha h6 hl
    (read_expired (t := lowRead s axis t6 l0 l1 d1)
      (embeds_nest (embeds_readHp hc axis timeout) fun p s _ => stepReadHp_high axis timeout s p) rfl
      ha (by decide) rfl h7 hw hd fun _ => continues_done hready.1)

theorem readHpCall_ok {h0 h1 : Byte} (hd : GivesSample s.cfg.readyWired d1 h0 h1 left) :
    RunsTo s (({ s with
        st := .noError
        cmd := some (commandByte s.cfg axis 7)
        tmo := some t7
        low := none
        high := none
        res := some (BitVec.ofInt 32 (fuseValue s.cfg (sampleOf l0 l1).toInt (sampleOf h0 h1).toInt))
        draws := left } : State).ended rest
      { status := some .noError
        value := some (BitVec.ofInt 32 (fuseValue s.cfg (sampleOf l0 l1).toInt (sampleOf h0 h1).toInt)).toInt }
      (readTrace s.cfg.readyWired (commandByte s.cfg axis 6) t6 l0 l1 ++
        readTrace s.cfg.readyWired (commandByte s.cfg axis 7) t7 h0 h1)
      (readOps s.cfg.readyWired .low axis 6 timeout l0 l1 ++
        readOps s.cfg.readyWired .high axis 7 timeout h0 h1 ++ [.fuse])) :=
  readHp_to_high hc hready ha h6 hl
    (read_ok (t := lowRead s axis t6 l0 l1 d1)
      (embeds_nest (embeds_readHp hc axis timeout) fun p s _ => stepReadHp_high axis timeout s p) rfl
      ha (by decide) rfl h7 hd fun _ => readHp_fuse_ok (t := { s with
        st := .noError
        cmd := some (commandByte s.cfg axis 7)
        tmo := some t7
        low := some (sampleOf l0 l1)
        high := some (sampleOf h0 h1)
        draws := left }) hc hready.1 rfl rfl)

end ReadHp

/-! ### `BEGIN` -/

theorem firstAxis_toNat {c : Config} (hc : c.Legal) : (firstAxis c).toNat = c.axisBase := by
  obtain ⟨-, hbase, -⟩ := hc
  rw [firstAxis, BitVec.toNat_ofNat, Nat.mod_eq_of_lt (by omega)]

theorem axisValid_firstAxis {c : Config} (hc : c.Legal) : axisValid c (firstAxis c) := by
  have hcount := hc.1
  rw [axisValid, firstAxis_toNat hc]
  omega

/-- The command byte of `BEGIN`'s read (R115, D17, D32). -/
theorem commandByte_firstAxis {c : Config} (hc : c.Legal) : commandByte c (firstAxis c) 0 = 0x01 := by
  rw [commandByte_eq_ofNat hc (axisValid_firstAxis hc) (by decide), firstAxis_toNat hc, Nat.sub_self]
  rfl

section Begin
variable {s : State} {rest : List Line} (hc : s.cfg.Legal) (hready : s.ReadyFor .begin rest)
include hc

theorem embeds_begin_reading : Embeds s.cfg (stepRead .low (firstAxis s.cfg) 0 0) (fun p => .begin (.reading p))
    (fun r t => .done { status := r.status, value := none } t) :=
  embeds_nest (embeds_begin hc) fun p t ht => by rw [stepBegin_reading, ht]

include hready

/-- The set-up events, then the read (R115). -/
theorem begin_to_reading {T : State}
    (h : RunsTo (running s rest (.begin (.reading (.converting .enc))) (beginTrace s.cfg.readyWired) []) T) :
    RunsTo s T := by
  have hE := embeds_begin hc
  refine runsTo_of_call hc hready ?_
  refine running_emit hE rfl (p := .dirSelect) rfl ?_
  refine running_emit hE rfl (p' := .dirReady) rfl ?_
  cases hw : s.cfg.readyWired with rw [hw] at h
  | true =>
    refine running_emit hE rfl (u := s) (p' := .desel) (congrArg _ (if_pos hw)) ?_
    refine running_emit hE rfl (p' := .rstIdle) rfl ?_
    refine running_emit hE rfl (p' := .busCfg) rfl ?_
    exact running_emit hE rfl (p' := .reading (.converting .enc)) rfl h
  | false =>
    refine running_goto hE rfl (u := s) (p' := .desel) (congrArg _ (if_neg (by rw [Bool.not_eq_true]; exact hw))) ?_
    refine running_emit hE rfl (p' := .rstIdle) rfl ?_
    refine running_emit hE rfl (p' := .busCfg) rfl ?_
    exact running_emit hE rfl (p' := .reading (.converting .enc)) rfl h

theorem beginCall_expired {left : Draws} (hw : s.cfg.readyWired = true) (hd : DrawsWait s.draws .expired left) :
    RunsTo s (({ s with st := .timeout, cmd := some 0x01, tmo := some 501, draws := left } : State).ended rest
      { status := some .timeout, value := none }
      (beginTrace s.cfg.readyWired ++ convertTrace 0x01 ++ [.poll 501])
      [.enc (firstAxis s.cfg) 0, .tmo 0 0, .waitr true]) :=
  begin_to_reading hc hready
    (read_expired (embeds_begin_reading hc) rfl (axisValid_firstAxis hc) (by decide) (commandByte_firstAxis hc) rfl hw
      hd fun _ => continues_done hready.1)

theorem beginCall_ok {b0 b1 : Byte} {left : Draws} (hd : GivesSample s.cfg.readyWired s.draws b0 b1 left) :
    RunsTo s (({ s with
        st := .noError
        cmd := some 0x01
        tmo := some 501
        low := some (sampleOf b0 b1)
        draws := left } : State).ended rest
      { status := some .noError, value := none }
      (beginTrace s.cfg.readyWired ++ readTrace s.cfg.readyWired 0x01 501 b0 b1)
      (readOps s.cfg.readyWired .low (firstAxis s.cfg) 0 0 b0 b1)) :=
  begin_to_reading hc hready
    (read_ok (embeds_begin_reading hc) rfl (axisValid_firstAxis hc) (by decide) (commandByte_firstAxis hc) rfl hd
      fun _ => continues_done hready.1)

end Begin

/-! ### The statements for given values -/

/-- Settles O39: `ENC` refuses the axis, or the period, or leaves the command byte that is sent. -/
theorem convertRuns : Obligations.ConvertRuns := by
  refine fun s axis period rest hc hready => ⟨fun ha => ?badAxis, fun ha hp => ?badPeriod, fun ha hp b hb => ?ok⟩
  case badAxis => exact convertCall_refused hc hready (encStatus_of_not_axisValid ha) nofun
  case badPeriod => exact convertCall_refused hc hready (encStatus_of_not_periodValid ha (not_le.2 hp)) nofun
  case ok =>
    refine convertCall_ok hc hready ha hp ?_
    rw [commandByte_eq_ofNat hc ha hp, ← hb, BitVec.ofNat_toNat, BitVec.setWidth_eq]

/-- Settles O40: the two bytes drawn are the listed ones. -/
theorem getResultRuns : Obligations.GetResultRuns :=
  fun _ _ _ _ _ _ hc hready hd => getCall_ok hc hready (givesBytes_of_supplies hd)

/-- Settles O41: the values supplied give a sample, with the ready line wired or not. -/
theorem readSucceeds : Obligations.ReadSucceeds :=
  fun _ _ _ _ _ _ _ _ _ _ hc ha hp hready hd hu => readCall_ok hc hready ha hp hu (givesSample_of_supplies hd)

/-- Settles O42: `READ` ends where `CONVERT` does, or at an expired wait. -/
theorem readReturnsErrors : Obligations.ReadReturnsErrors := by
  refine fun s d axis period timeout rest hc hready =>
    ⟨fun ha => ?badAxis, fun ha hp => ?badPeriod, fun left u ha hp hw hd hu => ?expired⟩
  case badAxis => exact readCall_refused hc hready (encStatus_of_not_axisValid ha) nofun
  case badPeriod => exact readCall_refused hc hready (encStatus_of_not_periodValid ha (not_le.2 hp)) nofun
  case expired => exact readCall_expired hc hready ha hp hu hw (drawsExpired_of_supplies hw hd)

theorem exists_effectiveTimeout {period : Byte} (hp : periodValid period) (timeout : Word32) :
    ∃ u, effectiveTimeout period timeout = some u := by
  refine Option.ne_none_iff_exists'.1 fun hnone => ?_
  have hlarge := (effectiveTimeout_eq_none.1 hnone).2
  exact absurd hp (not_le.2 hlarge)

/-- The effective timeout of a period whose default is `u` (R90). -/
theorem effectiveTimeout_of_default {period : Byte} {u : Word32} (h : effectiveTimeout period 0 = some u)
    (timeout : Word32) : effectiveTimeout period timeout = some (if timeout = 0 then u else timeout) := by
  split
  case isTrue h0 => rw [h0, h]
  case isFalse hne => exact effectiveTimeout_of_ne_zero hne

/-- Settles O43: two reads that succeed, and `FUSE` of their samples, whose value is stored exactly. -/
theorem readHpSucceeds : Obligations.ReadHpSucceeds := by
  intro s axis timeout rest l0 l1 h0 h1 left t6 t7 hc ha hready hd ht6 ht7
  have h6 := ht6 ▸ effectiveTimeout_of_default (period := 6) (u := 35501) rfl timeout
  have h7 := ht7 ▸ effectiveTimeout_of_default (period := 7) (u := 60001) rfl timeout
  obtain ⟨d1, hl, hh⟩ := givesSamples_of_supplies hd
  exact ⟨_, toInt_ofInt_fuseValue hc _ _, readHpCall_ok hc hready ha h6 h7 hl hh⟩

/-- Settles O44: the first sub-read fails, or succeeds and the second one's wait expires. -/
theorem readHpReturnsErrors : Obligations.ReadHpReturnsErrors := by
  intro s axis timeout rest t6 t7 hc hready ht6 ht7
  have h6 := ht6 ▸ effectiveTimeout_of_default (period := 6) (u := 35501) rfl timeout
  have h7 := ht7 ▸ effectiveTimeout_of_default (period := 7) (u := 60001) rfl timeout
  refine ⟨readHpCall_refused hc hready, fun left ha hw hd => ?low, fun l0 l1 left ha hw hd => ?high⟩
  case low =>
    exact readHpCall_expired_low hc hready ha h6 hw (drawsExpired_of_supplies hw hd)
  case high =>
    obtain ⟨d1, hl, hx⟩ := sampleThenExpired_of_supplies hw hd
    have hrun := readHpCall_expired_high hc hready ha h6 h7 hl hw hx
    rw [hw] at hrun
    exact hrun

/-- Settles O45: the set-up, and a `READ` of the first axis whose sample is dropped. -/
theorem beginRuns : Obligations.BeginRuns := by
  refine fun s rest hc hready => ⟨fun b0 b1 left hd => ?ok, fun left hw hd => ?expired⟩
  case ok => exact beginCall_ok hc hready (givesSample_of_supplies hd)
  case expired =>
    have hrun := beginCall_expired hc hready hw (drawsExpired_of_supplies hw hd)
    rw [hw] at hrun
    exact hrun

/-! ### The statements for whatever the environment gives -/

/-- Settles O46: the launch leaves the host idle with `BEGIN` next; a sample ends it in the premise, and an expired
wait in a return of `Timeout`. -/
theorem beginBoots : Obligations.BeginBoots := by
  intro c lines l draws hc hl
  rw [launch_singleton hc] at hl
  injection hl with hl
  subst hl
  refine ⟨fun hready => ?boots, fun hw hx => ?expired⟩
  case boots =>
    obtain ⟨b0, b1, left, hd⟩ := exists_givesSample hready
    exact ⟨_, beginCall_ok hc ⟨rfl, rfl, rfl⟩ hd, ⟨rfl, rfl, rfl, _, rfl⟩, rfl, rfl, rfl, rfl, rfl, rfl, rfl, rfl⟩
  case expired =>
    obtain ⟨left, hd⟩ := exists_drawsWait_of_head hx
    exact ⟨_, beginCall_expired hc ⟨rfl, rfl, rfl⟩ hw hd, rfl, rfl, rfl, rfl, fun ⟨_, _, hret, _⟩ => nomatch hret⟩

/-- The call's run ends with the host idle and an outcome the call's rule allows. -/
def EndsAllowed (s : State) (call : Call) (rest : List Line) : Prop :=
  ∃ (t : State) (r : Ret), RunsTo s t ∧ t.cfg = s.cfg ∧ t.port = none ∧ t.activity = none ∧
    t.program = rest ∧ t.ret = some r ∧ CallOutcome s.cfg call r

theorem endsAllowed_of_ended {s t : State} {call : Call} {rest : List Line} {r : Ret} {tr : List Event}
    {is : List Instr} (h : RunsTo s (t.ended rest r tr is)) (hcfg : t.cfg = s.cfg) (hport : t.port = none)
    (hr : CallOutcome s.cfg call r) : EndsAllowed s call rest :=
  ⟨_, r, h, hcfg, hport, rfl, rfl, rfl, hr⟩

section EndsAllowed
variable {s : State} {rest : List Line} (hc : s.cfg.Legal)
include hc

theorem convert_endsAllowed {axis period : Byte} (hready : s.ReadyFor (.convert axis period) rest) :
    EndsAllowed s (.convert axis period) rest := by
  by_cases he : encStatus s.cfg axis period = .noError
  · obtain ⟨ha, hp⟩ := encStatus_eq_noError_iff.1 he
    exact endsAllowed_of_ended (convertCall_ok hc hready ha hp rfl) rfl hready.1 (by rw [CallOutcome, he])
  · exact endsAllowed_of_ended (convertCall_refused hc hready rfl he) rfl hready.1 rfl

theorem getResult_endsAllowed {d : Dest} (hready : s.ReadyFor (.getResult d) rest) :
    EndsAllowed s (.getResult d) rest := by
  obtain ⟨b0, b1, left, hd⟩ := exists_givesBytes s.draws
  exact endsAllowed_of_ended (getCall_ok hc hready hd) (withSample_cfg _ _ _) ((withSample_port _ _ _).trans hready.1)
    ⟨_, rfl⟩

theorem read_endsAllowed {d : Dest} {axis period : Byte} {timeout : Word32}
    (hready : s.ReadyFor (.read d axis period timeout) rest) : EndsAllowed s (.read d axis period timeout) rest := by
  by_cases he : encStatus s.cfg axis period = .noError
  · obtain ⟨ha, hp⟩ := encStatus_eq_noError_iff.1 he
    obtain ⟨u, hu⟩ := exists_effectiveTimeout hp timeout
    obtain ⟨b0, b1, left, hd⟩ | ⟨hw, left, hd⟩ := sample_or_expired s.cfg.readyWired s.draws
    · refine endsAllowed_of_ended (readCall_ok hc hready ha hp hu hd) (withSample_cfg _ _ _)
        ((withSample_port _ _ _).trans hready.1) ?_
      rw [CallOutcome, if_pos he]
      exact .inr ⟨_, rfl⟩
    · refine endsAllowed_of_ended (readCall_expired hc hready ha hp hu hw hd) rfl hready.1 ?_
      rw [CallOutcome, if_pos he]
      exact .inl ⟨hw, rfl⟩
  · exact endsAllowed_of_ended (readCall_refused hc hready rfl he) rfl hready.1 (by rw [CallOutcome, if_neg he])

/-- A fused value lies in the range of R26, and either sub-read may be the one whose wait expires (R114). -/
theorem readHp_endsAllowed {axis : Byte} {timeout : Word32} (hready : s.ReadyFor (.readHp axis timeout) rest) :
    EndsAllowed s (.readHp axis timeout) rest := by
  by_cases ha : axisValid s.cfg axis
  case neg =>
    exact endsAllowed_of_ended (readHpCall_refused hc hready ha) rfl hready.1 (by rw [CallOutcome, if_neg ha])
  obtain ⟨t6, h6⟩ := exists_effectiveTimeout (period := 6) (by decide) timeout
  obtain ⟨t7, h7⟩ := exists_effectiveTimeout (period := 7) (by decide) timeout
  have hallowed {r : Ret} (hr : TimedOut s.cfg r ∨
      ∃ v : Int, -65537 ≤ v ∧ v ≤ 65535 ∧ r = { status := some .noError, value := some v }) :
      CallOutcome s.cfg (.readHp axis timeout) r := by
    rw [CallOutcome, if_pos ha]
    exact hr
  obtain ⟨l0, l1, d1, hl⟩ | ⟨hw, left, hd⟩ := sample_or_expired s.cfg.readyWired s.draws
  case inr =>
    exact endsAllowed_of_ended (readHpCall_expired_low hc hready ha h6 hw hd) rfl hready.1 (hallowed (.inl ⟨hw, rfl⟩))
  obtain ⟨k0, k1, left, hh⟩ | ⟨hw, left, hd⟩ := sample_or_expired s.cfg.readyWired d1
  case inr =>
    exact endsAllowed_of_ended (readHpCall_expired_high hc hready ha h6 h7 hl hw hd) rfl hready.1
      (hallowed (.inl ⟨hw, rfl⟩))
  obtain ⟨hlo, hhi⟩ := fuseValue_bounds hc (sampleOf l0 l1) (sampleOf k0 k1)
  rw [← toInt_ofInt_fuseValue hc] at hlo hhi
  exact endsAllowed_of_ended (readHpCall_ok hc hready ha h6 h7 hl hh) rfl hready.1
    (hallowed (.inr ⟨_, hlo, hhi, rfl⟩))

theorem begin_endsAllowed (hready : s.ReadyFor .begin rest) : EndsAllowed s .begin rest := by
  obtain ⟨b0, b1, left, hd⟩ | ⟨hw, left, hd⟩ := sample_or_expired s.cfg.readyWired s.draws
  · exact endsAllowed_of_ended (beginCall_ok hc hready hd) rfl hready.1 (.inr rfl)
  · exact endsAllowed_of_ended (beginCall_expired hc hready hw hd) rfl hready.1 (.inl ⟨hw, rfl⟩)

end EndsAllowed

/-- Settles O47: whatever is drawn, the call ends with a return its rule allows. The idle host is all this needs of
the launch premise: what a failed `BEGIN` leaves open is the sensor's part, which comes in as drawn values (log 23). -/
theorem sequencesAfterBegin : Obligations.SequencesAfterBegin := by
  intro s call rest hc _ hready
  cases call with
  | convert axis period => exact convert_endsAllowed hc hready
  | getResult d => exact getResult_endsAllowed hc hready
  | read d axis period timeout => exact read_endsAllowed hc hready
  | readHp axis timeout => exact readHp_endsAllowed hc hready
  | begin => exact begin_endsAllowed hc hready

end Sys2Proof.Proofs
end

section
/-!
PROOF. The outcomes that are no status code (spec/60_exceptions.md R142). An operation, the host's step and the launch
each test the configuration before anything else, so under an illegal one each is refused, whatever the rest of the state.
-/
namespace Sys2Proof.Proofs
open Sys2Proof.Machine Sys2Proof.Laws

section BadConfig
variable {c : Config} {s : State}

/-- The instructions with a row in R66 are the six operations; a command byte has none. -/
theorem exec_of_not_legal (hc : ¬ s.cfg.Legal) {i : Instr} (hrow : rowOf i ≠ none) :
    exec i s = .refused .badConfig := by
  match i with
  | .enc _ _ | .tmo _ _ | .waitr _ | .ldl _ _ | .ldh _ _ | .fuse => exact requireConfig_of_not_legal hc _
  | .cmdP32 _ | .cmdP64 _ | .cmdP128 _ | .cmdP256 _ | .cmdP512 _ | .cmdP1024 _ | .cmdP2048 _ | .cmdP4096 _ =>
    exact absurd rfl hrow

/-- The host's step is refused, idle or inside a call. -/
theorem step_of_host_of_not_legal (hc : ¬ s.cfg.Legal) (hport : s.port = none) : step s = .refused .badConfig := by
  simp only [step, hport]
  exact requireConfig_of_not_legal hc _

/-- The configuration is tested before the hosts are counted. -/
theorem launch_of_not_legal (hc : ¬ c.Legal) (hosts : List (List Line)) : launch c hosts = .refused .badConfig :=
  requireConfig_of_not_legal hc _

end BadConfig

/-- Settles O25: the fault is `execFuse_of_invalid`, the reserved word `step_of_reserved`, and an illegal configuration
is refused wherever it is tested. -/
theorem outcomesThatAreNoStatus : Obligations.OutcomesThatAreNoStatus := by
  intro s
  refine ⟨execFuse_of_invalid, fun w e hport he => step_of_reserved hport ⟨e, he⟩, fun hc => ⟨?_, ?_, ?_⟩⟩
  · exact fun _ => exec_of_not_legal hc
  · exact step_of_host_of_not_legal hc
  · exact fun lines => launch_of_not_legal hc [lines]

end Sys2Proof.Proofs
end

section
/-!
PROOF. Reset and the hazards (spec/70_reset_and_hazards.md): the host changes no register (R150, R151), and it sends
nothing but the payload of `CMD` (R158). Of all the lines of the five calls, one transmits: that of `CONVERT`.
-/
namespace Sys2Proof.Proofs
open Sys2Proof.Machine Sys2Proof.Laws

/-! ### Registers change by operations alone -/

/-- Settles O28: with the port empty the step is the host's (`step_next`), which writes no register
(`hostStep_sameBlock`); what reset gives stands in `State.afterReset`. -/
theorem onlyOperationsChangeRegisters : Obligations.OnlyOperationsChangeRegisters := by
  refine ⟨fun s t hport h => ?step, fun c => ⟨rfl, rfl, fun r hr => ?reset⟩⟩
  case step =>
    obtain ⟨w, i, hw, -, -⟩ | ⟨-, hh⟩ := step_next h
    · exact absurd (hport.symm.trans hw) nofun
    · exact hostStep_sameBlock hh
  case reset =>
    cases r with
    | st => exact absurd rfl hr
    | cmd | tmo | low | high | res => rfl

/-! ### What the host sends -/

/-- From `s` to `t` the host has sent no byte, or the payload of `CMD` (R158). -/
def SendsOnlyCmd (s t : State) : Prop := ∀ c, t.trace = s.trace ++ [.tx c] → s.cmd = some c

theorem sendsOnlyCmd_of_trace_eq {s t : State} (h : t.trace = s.trace) : SendsOnlyCmd s t := by
  intro c hc
  rw [h, List.self_eq_append_right] at hc
  cases hc

theorem sendsOnlyCmd_of_event {s t : State} {e : Event} (h : t.trace = s.trace ++ [e])
    (he : ∀ c, e = .tx c → s.cmd = some c) : SendsOnlyCmd s t := by
  intro c hc
  rw [h, List.append_cancel_left_eq, List.singleton_inj] at hc
  exact he c hc

/-- A line of a sequence that starts at `s` sends no byte, or the payload of `CMD`. -/
def LineSendsOnlyCmd {π ρ : Type} (s : State) : Progress π ρ → Prop
  | .goto _ t => SendsOnlyCmd s t
  | .done _ t => SendsOnlyCmd s t
  | .fault _ => True

theorem lineSendsOnlyCmd_nest {π ρ π' ρ' : Type} {s : State} {place : π → π'} {next : ρ → State → Progress π' ρ'}
    {x : Progress π ρ} (hx : LineSendsOnlyCmd s x)
    (hnext : ∀ y t, SendsOnlyCmd s t → LineSendsOnlyCmd s (next y t)) : LineSendsOnlyCmd s (nest place next x) := by
  cases x with
  | goto p t => exact hx
  | done y t => exact hnext y t hx
  | fault f => trivial

section Lines
variable (s : State)

/-- The one line that transmits reads `CMD` and sends what it read (R111). -/
theorem stepConvert_lineSendsOnlyCmd (axis period : Byte) (p : ConvertPoint) :
    LineSendsOnlyCmd s (stepConvert axis period p s) := by
  cases p with
  | tx =>
    unfold stepConvert
    dsimp only
    split
    case h_1 c hcmd => exact sendsOnlyCmd_of_event rfl fun | _, rfl => hcmd
    case h_2 => trivial
  | test =>
    unfold stepConvert
    dsimp only
    split <;> exact sendsOnlyCmd_of_trace_eq rfl
  | enc | ret => exact sendsOnlyCmd_of_trace_eq rfl
  | sel | pulse | desel => exact sendsOnlyCmd_of_event rfl nofun

theorem stepGet_lineSendsOnlyCmd (d : Dest) (p : GetPoint) : LineSendsOnlyCmd s (stepGet d p s) := by
  cases p with
  | rx0 | rx1 => exact sendsOnlyCmd_of_event (congrArg (· ++ _) (drawByte_trace s)) nofun
  | sel | desel => exact sendsOnlyCmd_of_event rfl nofun
  | load | ret => exact sendsOnlyCmd_of_trace_eq rfl

theorem stepRead_lineSendsOnlyCmd (d : Dest) (axis period : Byte) (timeout : Word32) (p : ReadPoint) :
    LineSendsOnlyCmd s (stepRead d axis period timeout p s) := by
  cases p with
  | converting q =>
    rw [stepRead_converting]
    refine lineSendsOnlyCmd_nest (stepConvert_lineSendsOnlyCmd s axis period q) fun code t ht => ?_
    split <;> exact ht
  | test =>
    unfold stepRead
    dsimp only
    split <;> exact sendsOnlyCmd_of_trace_eq rfl
  | latch =>
    unfold stepRead
    dsimp only
    split
    · exact sendsOnlyCmd_of_trace_eq rfl
    · trivial
  | wait t =>
    unfold stepRead
    dsimp only
    split
    · exact sendsOnlyCmd_of_event (congrArg (· ++ _) (drawWait_trace s)) nofun
    · exact sendsOnlyCmd_of_event rfl nofun
  | judge w => cases w <;> exact sendsOnlyCmd_of_trace_eq rfl
  | getting q =>
    rw [stepRead_getting]
    exact lineSendsOnlyCmd_nest (stepGet_lineSendsOnlyCmd s d q) fun _ _ ht => ht
  | tmo | report => exact sendsOnlyCmd_of_trace_eq rfl

theorem stepReadHp_lineSendsOnlyCmd (axis : Byte) (timeout : Word32) (p : ReadHpPoint) :
    LineSendsOnlyCmd s (stepReadHp axis timeout p s) := by
  cases p with
  | low q =>
    rw [stepReadHp_low]
    refine lineSendsOnlyCmd_nest (stepRead_lineSendsOnlyCmd s .low axis 6 timeout q) fun r t ht => ?_
    split <;> exact ht
  | high q =>
    rw [stepReadHp_high]
    refine lineSendsOnlyCmd_nest (stepRead_lineSendsOnlyCmd s .high axis 7 timeout q) fun r t ht => ?_
    split <;> exact ht
  | fuse => exact sendsOnlyCmd_of_trace_eq rfl
  | ret =>
    unfold stepReadHp
    dsimp only
    split
    · exact sendsOnlyCmd_of_trace_eq rfl
    · trivial

theorem stepBegin_lineSendsOnlyCmd (p : BeginPoint) : LineSendsOnlyCmd s (stepBegin p s) := by
  cases p with
  | dirReady =>
    unfold stepBegin
    dsimp only
    split
    · exact sendsOnlyCmd_of_event rfl nofun
    · exact sendsOnlyCmd_of_trace_eq rfl
  | reading q =>
    rw [stepBegin_reading]
    exact lineSendsOnlyCmd_nest (stepRead_lineSendsOnlyCmd s .low _ 0 0 q) fun _ _ ht => ht
  | dirSelect | dirReset | desel | rstIdle | busCfg => exact sendsOnlyCmd_of_event rfl nofun

theorem stepActivity_lineSendsOnlyCmd (a : Activity) : LineSendsOnlyCmd s (stepActivity a s) := by
  cases a with
  | convert axis period p =>
    rw [stepActivity_convert]
    exact lineSendsOnlyCmd_nest (stepConvert_lineSendsOnlyCmd s axis period p) fun _ _ ht => ht
  | getResult d p =>
    rw [stepActivity_getResult]
    exact lineSendsOnlyCmd_nest (stepGet_lineSendsOnlyCmd s d p) fun _ _ ht => ht
  | read d axis period timeout p =>
    rw [stepActivity_read]
    exact lineSendsOnlyCmd_nest (stepRead_lineSendsOnlyCmd s d axis period timeout p) fun _ _ ht => ht
  | readHp axis timeout p =>
    rw [stepActivity_readHp]
    exact lineSendsOnlyCmd_nest (stepReadHp_lineSendsOnlyCmd s axis timeout p) fun _ _ ht => ht
  | begin p =>
    rw [stepActivity_begin]
    exact lineSendsOnlyCmd_nest (stepBegin_lineSendsOnlyCmd s p) fun _ _ ht => ht

/-- A call begins with an empty trace; any other next line leaves the trace. -/
theorem startNext_sendsOnlyCmd : SendsOnlyCmd s (startNext s) := by
  match hprog : s.program with
  | [] => rw [startNext_of_nil hprog]; exact sendsOnlyCmd_of_trace_eq rfl
  | .word w :: rest => rw [startNext_of_word hprog]; exact sendsOnlyCmd_of_trace_eq rfl
  | .call c :: rest =>
    rw [startNext_of_call hprog]
    exact fun _ htx => absurd htx.symm (List.append_ne_nil_of_right_ne_nil _ nofun)

end Lines

theorem hostStep_sendsOnlyCmd {s t : State} (h : hostStep s = .next t) : SendsOnlyCmd s t := by
  obtain ⟨-, ⟨-, rfl⟩ | ⟨a, a', u, -, hu, rfl⟩ | ⟨a, r, u, -, hu, rfl⟩⟩ := hostStep_eq_next.1 h
  · exact startNext_sendsOnlyCmd s
  all_goals
    have hline := stepActivity_lineSendsOnlyCmd s a
    rw [hu] at hline
    exact hline

/-- Settles O36: an operation taken from the port adds no event, so the step is the host's, which sends the payload
of `CMD` and leaves the registers. -/
theorem transmitsOnlyValidCommand : Obligations.TransmitsOnlyValidCommand := by
  intro s t c h htx
  obtain ⟨w, i, -, -, he⟩ | ⟨hport, hh⟩ := step_next h
  · have htrace : t.trace = s.trace := (exec_frame he).1.trace
    rw [htrace, List.self_eq_append_right] at htx
    cases htx
  · have hcmd : s.cmd = some c := hostStep_sendsOnlyCmd hh c htx
    exact ⟨hport, Option.isSome_iff_exists.2 ⟨c, hcmd⟩, hcmd, (hostStep_sameBlock hh).cmd.trans hcmd⟩

end Sys2Proof.Proofs
end
